-- ==== Sys2Proof/Word.lean ====
section
/-! DEFINITION. The words of the LR24: bytes of frames and the wrapping counts of chapter 0, section 0.6. -/

namespace Sys2Proof

/-- One byte of a frame. -/
abbrev Byte := BitVec 8

/-- A reading of the monotonic count: 48 bits, wrapping (R147). -/
abbrev Mono := BitVec 48

/-- An admission sequence: 32 bits, wrapping (R58). -/
abbrev AdmissionSeq := BitVec 32

/-- A cycle count of the segment clock: 16 bits, wrapping (R148). -/
abbrev CycleCount := BitVec 16

/-- A place of the Exchange Table, 0 to 23 (R53). -/
abbrev Slot := Fin 24

/-- An index into the Cycle Schedule, 0 to 31 (R160). -/
abbrev EntryIndex := Fin 32

/-- An index into the Report Store, 0 to 15 (R130). -/
abbrev StoreIndex := Fin 16

end Sys2Proof
end

