-- ==== Sys2Proof/Syntax.lean ====
section
/-! DEFINITION. Lines, frames (R1, R3, R4) and the commands of the LR24: one constructor of `Instr` for each row of
spec/opcode_table.json. -/

namespace Sys2Proof

/-- The two lines of the part (R3). -/
inductive Line where
  | head
  | field
  deriving DecidableEq, Repr

/-- The twelve frame kinds (R3). -/
inductive FrameKind where
  | request | directive
  | outcome | refusal | reportDelivery | acknowledge | notice
  | issue | receipt
  | answer | defer | report
  deriving DecidableEq, Repr

/-- A frame without its Length and Check, which R1 derives from the rest. -/
structure Frame where
  kind : FrameKind
  node : Byte
  tag : Byte
  function : Byte
  payload : List Byte
  deriving DecidableEq, Repr

/-- The commands: the rows of the table of operations and events. A directive command carries no operand, since
its arguments stand in the first frame of the Head Intake (log 18). -/
inductive Instr where
  /-- RESET (R128). -/
  | reset
  /-- REQUEST_ARRIVAL (R20): a REQUEST's fields as sent by the controller. -/
  | requestArrival (node tag function : Byte) (payload : List Byte)
  /-- DIRECTIVE_ARRIVAL (R20): directive number, directive code and arguments. -/
  | directiveArrival (number code : Byte) (arguments : List Byte)
  /-- MALFORMED_FRAME (R5): the bytes received, from Kind to the end. -/
  | malformedFrame (line : Line) (bytes : List Byte)
  /-- ANSWER_ARRIVAL (R99). -/
  | answerArrival (node tag function : Byte) (payload : List Byte)
  /-- DEFER_ARRIVAL (R105): the payload is empty or the four hint bytes. -/
  | deferArrival (node tag function : Byte) (payload : List Byte)
  /-- REPORT_ARRIVAL (R133). -/
  | reportArrival (node sequence function : Byte) (payload : List Byte)
  /-- HEAD_LINE_DOWN (R177). -/
  | headLineDown
  /-- HEAD_LINE_UP (R175). -/
  | headLineUp
  /-- FIELD_LINE_DOWN (R122). -/
  | fieldLineDown
  /-- FIELD_LINE_UP (R124). -/
  | fieldLineUp
  /-- ISSUE_SELECTION (R91). -/
  | issueSelection
  /-- BROADCAST_SELECTION (R96). -/
  | broadcastSelection
  /-- RECEIPT_TRANSMIT_START (R86). -/
  | receiptTransmitStart
  /-- ISSUE_TRANSMIT_COMPLETION (R94). -/
  | issueTransmitCompletion
  /-- BROADCAST_TRANSMIT_COMPLETION (R96). -/
  | broadcastTransmitCompletion
  /-- RECEIPT_TRANSMIT_COMPLETION (R86). -/
  | receiptTransmitCompletion
  /-- HEAD_TRANSMIT_START (R175). -/
  | headTransmitStart
  /-- OUTCOME_TRANSMIT_COMPLETION (R61). -/
  | outcomeTransmitCompletion
  /-- REPORT_DELIVERY_COMPLETION (R143). -/
  | reportDeliveryCompletion
  /-- CONTROL_TRANSMIT_COMPLETION (R176). -/
  | controlTransmitCompletion
  /-- ANSWER_WINDOW_EXPIRY (R108) of the exchange in a slot. -/
  | answerWindowExpiry (slot : Slot)
  /-- REISSUE_DUE (R107) of the exchange in a slot. -/
  | reissueDue (slot : Slot)
  /-- LIFETIME_END (R110) of the exchange in a slot. -/
  | lifetimeEnd (slot : Slot)
  /-- QUIET_UNTIL_REACHED (R64) of a node. -/
  | quietUntilReached (node : Nat)
  /-- CYCLE_START (R149, R150): a wrap or a flywheel start; also the advance of the phase that a tick has held for a SYNC edge
  (R159, log 5). -/
  | cycleStart
  /-- SYNC_EDGE (R154). -/
  | syncEdge
  /-- QUALIFIED_LEVEL_CHANGE (R151). -/
  | qualifiedLevelChange
  /-- SCHEDULE_FIRING (R168) of a schedule entry. -/
  | scheduleFiring (entry : EntryIndex)
  /-- TAKE_REQUEST (R75). -/
  | takeRequest
  /-- UNKNOWN_DIRECTIVE (R25). -/
  | unknownDirective
  /-- FETCH_IDENTITY (R27). -/
  | fetchIdentity
  /-- SET_PARAMETERS (R29). -/
  | setParameters
  /-- READ_PARAMETERS (R31). -/
  | readParameters
  /-- READ_FLAGS (R35). -/
  | readFlags
  /-- CLEAR_FLAGS (R36). -/
  | clearFlags
  /-- READ_COUNTERS (R37). -/
  | readCounters
  /-- READ_TIMEBASE (R153). -/
  | readTimebase
  /-- LOAD_POLICY (R47). -/
  | loadPolicy
  /-- DROP_POLICY (R48). -/
  | dropPolicy
  /-- READ_POLICY (R49). -/
  | readPolicy
  /-- READ_EXCHANGE (R67). -/
  | readExchange
  /-- READ_NODE (R68). -/
  | readNode
  /-- CANCEL_EXCHANGE (R117). -/
  | cancelExchange
  /-- CANCEL_NODE (R119). -/
  | cancelNode
  /-- POST_GRANT (R138). -/
  | postGrant
  /-- WITHDRAW_GRANT (R139). -/
  | withdrawGrant
  /-- DISCARD_PARKED (R140). -/
  | discardParked
  /-- LOAD_SCHEDULE_ENTRY (R163). -/
  | loadScheduleEntry
  /-- ARM_ENTRY (R164). -/
  | armEntry
  /-- DISARM_ENTRY (R165). -/
  | disarmEntry
  /-- CLEAR_ENTRY (R165). -/
  | clearEntry
  /-- READ_SCHEDULE_ENTRY (R166). -/
  | readScheduleEntry
  /-- RESTART (R126). -/
  | restart
  /-- FLAGS_RAISED_NOTICE_PLACED (R34). -/
  | flagsRaisedNoticePlaced
  /-- GRANT_WANTED_NOTICE_PLACED (R142). -/
  | grantWantedNoticePlaced
  /-- TICK (R147): the SYNC level sampled, whether the tick carries valid line signal on the head line and on the
  field line (R7, log 19), and whether a SYNC edge taken at this tick is taken before the tick's advance of the
  phase (R159, log 4). -/
  | tick (sync headSignal fieldSignal edgeFirst : Bool)
  /-- START_PATTERN_SEEN (R5): a port's receive state passes from idle to receiving. -/
  | startPatternSeen (line : Line)
  deriving DecidableEq, Repr

end Sys2Proof
end

