-- ==== Sys2Proof/Config.lean ====
section
/-! DEFINITION. The figures fixed in the part: capacities (R14, R27), line thresholds (R7) and line timing (R8).
The manual leaves no value open that an instruction produces, so nothing here is opaque. -/

namespace Sys2Proof.Config

/-- The Head Intake holds up to 4 frames (R20). -/
def intakeCapacity : Nat := 4

/-- The Receipt Queue holds up to 8 receipts (R86). -/
def receiptCapacity : Nat := 8

/-- The Delivery List has 8 control places (R172). -/
def controlPlaces : Nat := 8

/-- The Policy Table holds up to 128 entries (R40). -/
def policyCapacity : Nat := 128

/-- A DOWN line becomes UP after 500 ticks of valid line signal (R7). -/
def upTicks : Nat := 500

/-- An UP line becomes DOWN after 2,000 ticks without valid line signal (R7). -/
def downTicks : Nat := 2000

/-- A frame of B bytes runs for 4 × (B + 2) ticks (R8). -/
def frameTicks (bytes : Nat) : Nat := 4 * (bytes + 2)

/-- The largest credit of a node (R137). -/
def maxCredit : Nat := 15

/-- A node number of a field node, 1 to 62 (chapter 0, section 0.6). -/
def firstNode : Nat := 1

/-- The highest field node. -/
def lastNode : Nat := 62

/-- Node 63 is broadcast (chapter 0, section 0.6). -/
def broadcastNode : Nat := 63

end Sys2Proof.Config
end

