-- ==== Sys2Proof/Machine/State.lean ====
section
/-! DEFINITION. The state of the LR24 as plain data, block by block, and its value after RESET# (R69, R83, R128, R146,
R148, R160, R171, R172). Optional fields of the manual are `Option`s: an absent field has no value (0.6). -/

namespace Sys2Proof.Machine

/-! ## Named values -/

/-- Clock Mode (R28). -/
inductive ClockMode where
  | free | synced
  deriving DecidableEq, Repr

/-- SYNC Polarity (R28). -/
inductive Polarity where
  | rising | falling
  deriving DecidableEq, Repr

/-- How the current cycle began (R148). -/
inductive StartKind where
  | reset | wrap | sync | flywheel
  deriving DecidableEq, Repr

/-- Classification of a SYNC edge (R152, R154). -/
inductive EdgeClass where
  | freeMode | onTime | early | late
  deriving DecidableEq, Repr

/-- A qualified change of the SYNC level: in the polarity's direction, a SYNC edge, or against it (R151). -/
inductive LevelChange where
  | edge | against
  deriving DecidableEq, Repr

/-- Long action of a policy (R42). -/
inductive LongAction where
  | deliver | truncate | silence
  deriving DecidableEq, Repr

/-- Short action of a policy (R42). -/
inductive ShortAction where
  | deliver | silence
  deriving DecidableEq, Repr

/-- Backoff of a policy (R42). -/
inductive Backoff where
  | doubling | flat
  deriving DecidableEq, Repr

/-- The ten outcomes (R10). -/
inductive OutcomeCode where
  | answered | answeredShort | answeredLong | truncated | noAnswer
  | deferLimit | expired | cancelled | lineLost | sent
  deriving DecidableEq, Repr

/-- The six refusals (R11, R70). -/
inductive RefusalCode where
  | tableFull | tagInUse | noPolicy | badNode | tooLong | badTag
  deriving DecidableEq, Repr

/-- The ten acknowledge statuses (R13). -/
inductive AckStatus where
  | done | replaced | partialDone | saturated | notFound | tooLate
  | badArgument | tableFull | unknownDirective | wrongState
  deriving DecidableEq, Repr

/-- Receipt kinds (R4, R136). -/
inductive ReceiptKind where
  | accepted | held | refused | repeated
  deriving DecidableEq, Repr

/-- Notice state of a node (R141). -/
inductive NoticeState where
  | none | owed | sent
  deriving DecidableEq, Repr

/-- The six flags, in flag-number order (R14, R32). -/
inductive Flag where
  | cycleSlip | scheduleCut | syncLost | headOverrun | storeFull | fieldLineLoss
  deriving DecidableEq, Repr

/-- The 30 counters (R38, R39); the ten outcome counters are one constructor over the outcome. -/
inductive Counter where
  | headGood | headCheckErrors | headMalformed | headOverrunDiscards
  | fieldGood | fieldCheckErrors | fieldMalformed
  | issuesSent | receiptsSent | receiptsDropped
  | outcomes (o : OutcomeCode)
  | refusals | staleAnswers | lateAnswers
  | reportsAccepted | reportsHeld | reportsRefused | reportsRepeated
  | scheduleSkips | directivesTaken | unknownDirectives
  deriving DecidableEq, Repr

/-! ## Records -/

/-- A segment time, cycle:phase (R158). -/
structure SegmentTime where
  cycle : CycleCount
  phase : Nat
  deriving DecidableEq, Repr

/-- A frame being sent (R8): its bytes from Kind to the second check byte, fixed at transmit start, and the
monotonic time of its transmit completion. -/
structure Transmission where
  bytes : List Byte
  completes : Mono
  deriving DecidableEq, Repr

/-- Receive state of a port (section 1.3): idle, or receiving a frame. MODEL: arrived, on the field port only, says that the last
byte of a node's ANSWER or DEFER was received before the line's change to DOWN of the same tick, and that the frame is still to
be judged and handed on (R5, R125, log 25). -/
inductive ReceiveState where
  | idle | receiving | arrived
  deriving DecidableEq, Repr

/-- A port (R7, R8): line state, run count, receive state and transmit state. -/
structure Port where
  up : Bool
  run : Nat
  receive : ReceiveState
  tx : Option Transmission
  deriving DecidableEq, Repr

/-- The nine parameters (R28); `cycleLength` is the length in force. -/
structure Parameters where
  scheduleReserve : Nat
  acyclicShare : Nat
  clockMode : ClockMode
  cycleLength : Nat
  syncPolarity : Polarity
  syncFilter : Nat
  syncTolerance : Nat
  syncMissLimit : Nat
  alertMask : BitVec 6
  deriving DecidableEq, Repr

/-- A flag record (R32). -/
structure FlagRecord where
  raised : Bool
  stamp : BitVec 16
  count : BitVec 8
  deriving DecidableEq, Repr

/-- A policy key (R41): node 0 is any node, and no function code is any function. -/
structure PolicyKey where
  node : Nat
  function : Option Byte
  deriving DecidableEq, Repr

/-- A policy entry (R42), also the policy snapshot of an exchange (R50). -/
structure Policy where
  key : PolicyKey
  nominal : Nat
  minimum : Nat
  maximum : Nat
  longAction : LongAction
  shortAction : ShortAction
  answerWindow : Nat
  lifetime : Nat
  deferLimit : Nat
  silentLimit : Nat
  baseDelay : Nat
  backoff : Backoff
  deriving DecidableEq, Repr

/-- Origin of an exchange with its head tag or schedule entry index (R54). -/
inductive Origin where
  | head (tag : Byte)
  | schedule (entry : EntryIndex)
  deriving DecidableEq, Repr

/-- The states of an open exchange (R57); a FREE slot holds no exchange. -/
inductive ExchangeState where
  | waiting | issued | deferred | ready | concluded
  deriving DecidableEq, Repr

/-- The answer fields of an answered conclusion (R55, R103). -/
structure AnswerFields where
  length : Nat
  residue : Int
  time : SegmentTime
  latency : Nat
  deriving DecidableEq, Repr

/-- An open exchange record (R54, R55, R56). -/
structure Exchange where
  state : ExchangeState
  origin : Origin
  /-- 1 to 62, or 63 for a broadcast. -/
  node : Nat
  function : Byte
  /-- The slot buffer; its length is the buffer length (R56). -/
  buffer : List Byte
  admissionSeq : AdmissionSeq
  admissionTime : Mono
  admissionCycle : CycleCount
  snapshot : Policy
  lifetimeEnd : Mono
  /-- Whether the lifetime end timer is armed (R57, R96, R101). -/
  lifetimeArmed : Bool
  issueCount : Nat
  deferCount : Nat
  silentCount : Nat
  firstIssue : Option SegmentTime
  lastCompletion : Option Mono
  answerDue : Option Mono
  reissueDue : Option Mono
  outcome : Option OutcomeCode
  answer : Option AnswerFields
  truncated : Bool
  deriving DecidableEq, Repr

/-- State of a node with the slot or time that is present in it only (R62, R64). -/
inductive NodeState where
  | idle
  | occupied (issued : Slot)
  | quiet (until? : Option Mono)
  | held (held : Slot)
  deriving DecidableEq, Repr

/-- A node entry: exchange side (R62), report side (R66) and park order (R132). -/
structure NodeEntry where
  state : NodeState
  issueNumber : Byte
  lastLatency : Nat
  maxLatency : Nat
  credit : Nat
  lastSequence : Option Byte
  notice : NoticeState
  parkOrder : List StoreIndex
  deriving DecidableEq, Repr

/-- An owed receipt (R86, R136). -/
structure Receipt where
  node : Nat
  sequence : Byte
  kind : ReceiptKind
  deriving DecidableEq, Repr

/-- The frame in flight (R84). -/
inductive InFlight where
  | issue (slot : Slot) (node : Nat) (issueNumber : Byte) (answerWindow : Nat)
  | receipt (r : Receipt)
  deriving DecidableEq, Repr

/-- A store entry in use (R130): PARKED, or RELEASED. -/
structure StoredReport where
  released : Bool
  node : Nat
  sequence : Byte
  function : Byte
  arrival : SegmentTime
  payload : List Byte
  deriving DecidableEq, Repr

/-- The sync capture record (R152). -/
structure Capture where
  cycle : CycleCount
  phase : Nat
  time : Mono
  classification : EdgeClass
  currentCycle : Bool
  deriving DecidableEq, Repr

/-- Mode of a schedule entry (R160). -/
inductive ScheduleMode where
  | periodic | oneShot
  deriving DecidableEq, Repr

/-- State of a schedule entry (R160). -/
inductive ScheduleState where
  | empty | idle | armed
  deriving DecidableEq, Repr

/-- The live fields, or the staged copy, of a schedule entry (R160). -/
structure ScheduleFields where
  mode : ScheduleMode
  node : Nat
  function : Byte
  phase : Nat
  divisor : Nat
  offset : Nat
  template : List Byte
  deriving DecidableEq, Repr

/-- A schedule entry (R160). -/
structure ScheduleEntry where
  state : ScheduleState
  live : Option ScheduleFields
  staged : Option ScheduleFields
  openSlot : Option Slot
  fired : Bool
  fires : BitVec 32
  overlapSkips : BitVec 32
  noSlotSkips : BitVec 32
  noPolicySkips : BitVec 32
  cuts : BitVec 32
  lastFire : Option SegmentTime
  deriving DecidableEq, Repr

/-- An item of the Delivery List (R172, R173). -/
inductive Item where
  | conclusion (slot : Slot)
  | report (entry : StoreIndex)
  | control (frame : Frame)
  deriving DecidableEq, Repr

/-! ## The machine -/

/-- The state of the part, and the queue of waiting commands. -/
structure State where
  headPort : Port
  fieldPort : Port
  intake : List Frame
  params : Parameters
  stagedLength : Option Nat
  flags : Vector FlagRecord 6
  flagEvent : BitVec 16
  flagsOwed : Bool
  counters : Vector (BitVec 32) 30
  policies : List Policy
  slots : Vector (Option Exchange) 24
  admissionCounter : AdmissionSeq
  pendingOrder : List Slot
  deferralList : List Slot
  /-- Node n stands at index n − 1 (R62). -/
  nodes : Vector NodeEntry 62
  scheduleRun : Nat
  inFlight : Option InFlight
  receipts : List Receipt
  store : Vector (Option StoredReport) 16
  owedOrder : List Nat
  now : Mono
  phase : Nat
  cycle : CycleCount
  startKind : StartKind
  missRun : Nat
  lossRaised : Bool
  capture : Option Capture
  sampled : Bool
  qualifiedLevel : Bool
  syncRun : Nat
  /-- MODEL: the qualified change that the present tick's sample made and that is still to be taken (R151, log 14). -/
  levelChange : Option LevelChange
  schedule : Vector ScheduleEntry 32
  delivery : List Item
  /-- MODEL: whether the present tick's advance of the phase is still to be made (R149, R159, log 5). -/
  advanceHeld : Bool
  /-- MODEL: the commands that wait, first in, first out (log 1). -/
  pending : List Instr
  deriving DecidableEq, Repr

/-- The reasons a step could stop with a fault. The manual describes no event that stops the part, and no meaning of
this model raises one (log 16), so the type has no constructor. -/
inductive Fault where
  deriving DecidableEq, Repr

/-- The reasons a step could refuse a command. -/
inductive Refusal where
  /-- A command whose meaning is not written yet, by its mnemonic; raised by no arm of this model. Safe: the machine
  stops where the part would go on. -/
  | notModelled (mnemonic : String)
  deriving DecidableEq, Repr

/-- A port after RESET# (R7). -/
def Port.initial : Port :=
  { up := false, run := 0, receive := .idle, tx := none }

/-- The parameters after RESET# (R28). -/
def Parameters.initial : Parameters :=
  { scheduleReserve := 2, acyclicShare := 4, clockMode := .free, cycleLength := 10000,
    syncPolarity := .rising, syncFilter := 3, syncTolerance := 50, syncMissLimit := 3, alertMask := 0 }

/-- A clear flag (R32). -/
def FlagRecord.clear : FlagRecord :=
  { raised := false, stamp := 0, count := 0 }

/-- A node entry after RESET# (R62, R66). -/
def NodeEntry.initial : NodeEntry :=
  { state := .idle, issueNumber := 0, lastLatency := 0, maxLatency := 0,
    credit := 0, lastSequence := none, notice := .none, parkOrder := [] }

/-- A schedule entry after RESET# (R160). -/
def ScheduleEntry.initial : ScheduleEntry :=
  { state := .empty, live := none, staged := none, openSlot := none, fired := false,
    fires := 0, overlapSkips := 0, noSlotSkips := 0, noPolicySkips := 0, cuts := 0, lastFire := none }

/-- The machine right after RESET#. The qualified level is a DESIGN CHOICE (log 9): the first sample sets it. -/
def State.reset : State :=
  { headPort := Port.initial
    fieldPort := Port.initial
    intake := []
    params := Parameters.initial
    stagedLength := none
    flags := Vector.replicate 6 FlagRecord.clear
    flagEvent := 0
    flagsOwed := false
    counters := Vector.replicate 30 0
    policies := []
    slots := Vector.replicate 24 none
    admissionCounter := 0
    pendingOrder := []
    deferralList := []
    nodes := Vector.replicate 62 NodeEntry.initial
    scheduleRun := 0
    inFlight := none
    receipts := []
    store := Vector.replicate 16 none
    owedOrder := []
    now := 0
    phase := 0
    cycle := 0
    startKind := .reset
    missRun := 0
    lossRaised := false
    capture := none
    sampled := false
    qualifiedLevel := false
    syncRun := 0
    levelChange := none
    schedule := Vector.replicate 32 ScheduleEntry.initial
    delivery := []
    advanceHeld := false
    pending := [] }

end Sys2Proof.Machine
end

