-- ==== Sys2Proof/Machine/Operands.lean ====
section
/-! DEFINITION. Operand forms of the LR24: byte order, codes, the check value (R2), the frame on the line and the receive
checks (R1, R3, R5), and every payload, argument and result layout of chapter 1 (R9 to R19). -/

namespace Sys2Proof.Machine

/-! ## Bytes -/

/-- The low `width` bytes of a number, high byte first (R1). -/
def beBytes : Nat → Nat → List Byte
  | 0, _ => []
  | width + 1, n => BitVec.ofNat 8 (n / 256 ^ width) :: beBytes width n

/-- The number spelled by bytes, high byte first (R1). -/
def beNat (bytes : List Byte) : Nat :=
  bytes.foldl (fun acc b => acc * 256 + b.toNat) 0

/-- The byte at an offset as a number; a byte past the end reads as 0, and every reader checks the length first. -/
def byteAt (bytes : List Byte) (i : Nat) : Nat :=
  (bytes.getD i 0).toNat

/-- The `width`-byte field at an offset. -/
def fieldAt (bytes : List Byte) (offset width : Nat) : Nat :=
  beNat ((bytes.drop offset).take width)

/-- One byte of a number. -/
def byte (n : Nat) : Byte := BitVec.ofNat 8 n

/-- 00h no, 01h yes. -/
def boolByte (b : Bool) : Byte := if b then 1 else 0

/-- A byte of single-bit indicators, the first being bit 0; bits without a meaning are 0 (R1). -/
def bitsByte : List Bool → Byte
  | [] => 0
  | b :: rest => (bitsByte rest <<< 1) ||| boolByte b

/-- Two's complement in two bytes (R10). -/
def signedBytes (r : Int) : List Byte :=
  beBytes 2 (r % 65536).toNat

/-- A segment time: cycle in 2 bytes, phase in 3 (R158). -/
def segmentBytes (t : SegmentTime) : List Byte :=
  beBytes 2 t.cycle.toNat ++ beBytes 3 t.phase

/-- An optional segment time, 0 when absent. -/
def segmentBytes? : Option SegmentTime → List Byte
  | some t => segmentBytes t
  | none => beBytes 5 0

/-- An optional monotonic time in 6 bytes, 0 when absent. -/
def monoBytes? : Option Mono → List Byte
  | some t => beBytes 6 t.toNat
  | none => beBytes 6 0

/-! ## Codes -/

/-- Frame kind codes (R3). -/
def kindCode : FrameKind → Byte
  | .request => 0x10
  | .directive => 0x11
  | .outcome => 0x18
  | .refusal => 0x19
  | .reportDelivery => 0x1A
  | .acknowledge => 0x1B
  | .notice => 0x1C
  | .issue => 0x20
  | .receipt => 0x21
  | .answer => 0x28
  | .defer => 0x29
  | .report => 0x2A

/-- The twelve kinds in code order (R3). -/
def allKinds : List FrameKind :=
  [.request, .directive, .outcome, .refusal, .reportDelivery, .acknowledge, .notice, .issue, .receipt,
    .answer, .defer, .report]

/-- The kind of a Kind byte, none when it is not one of the twelve codes (R3). -/
def kindOfCode (code : Byte) : Option FrameKind :=
  allKinds.find? (fun k => kindCode k == code)

/-- Outcome codes (R10). -/
def outcomeCode : OutcomeCode → Nat
  | .answered => 0x01
  | .answeredShort => 0x02
  | .answeredLong => 0x03
  | .truncated => 0x04
  | .noAnswer => 0x05
  | .deferLimit => 0x06
  | .expired => 0x07
  | .cancelled => 0x08
  | .lineLost => 0x09
  | .sent => 0x0A

/-- Refusal codes (R11). -/
def refusalCode : RefusalCode → Nat
  | .tableFull => 0x01
  | .tagInUse => 0x02
  | .noPolicy => 0x03
  | .badNode => 0x04
  | .tooLong => 0x05
  | .badTag => 0x06

/-- Acknowledge statuses (R13). -/
def statusCode : AckStatus → Nat
  | .done => 0x00
  | .replaced => 0x01
  | .partialDone => 0x02
  | .saturated => 0x03
  | .notFound => 0x10
  | .tooLate => 0x11
  | .badArgument => 0x12
  | .tableFull => 0x13
  | .unknownDirective => 0x14
  | .wrongState => 0x15

/-- Receipt kinds (R4). -/
def receiptCode : ReceiptKind → Nat
  | .accepted => 1
  | .held => 2
  | .refused => 3
  | .repeated => 4

/-- Notice kinds (R4): GRANT WANTED. -/
def grantWantedCode : Byte := 1

/-- Notice kinds (R4): FLAGS RAISED. -/
def flagsRaisedCode : Byte := 2

/-- Exchange states (R16); 00h is FREE. -/
def exchangeStateCode : ExchangeState → Nat
  | .waiting => 0x01
  | .issued => 0x02
  | .deferred => 0x03
  | .ready => 0x04
  | .concluded => 0x05

/-- Origin codes (R10, R16). -/
def originCode : Origin → Nat
  | .head _ => 0x00
  | .schedule _ => 0x01

/-- Head tag or schedule entry index, by origin (R4, R16). -/
def originTag : Origin → Byte
  | .head tag => tag
  | .schedule entry => byte entry.val

/-- Node states (R16). -/
def nodeStateCode : NodeState → Nat
  | .idle => 0x00
  | .occupied _ => 0x01
  | .quiet _ => 0x02
  | .held _ => 0x03

/-- Notice states (R16). -/
def noticeStateCode : NoticeState → Nat
  | .none => 0x00
  | .owed => 0x01
  | .sent => 0x02

/-- Clock Mode (R14). -/
def clockModeCode : ClockMode → Nat
  | .free => 0x00
  | .synced => 0x01

/-- Clock Mode of a byte. -/
def clockModeOf : Nat → Option ClockMode
  | 0x00 => some .free
  | 0x01 => some .synced
  | _ => none

/-- SYNC Polarity (R14). -/
def polarityCode : Polarity → Nat
  | .rising => 0x00
  | .falling => 0x01

/-- SYNC Polarity of a byte. -/
def polarityOf : Nat → Option Polarity
  | 0x00 => some .rising
  | 0x01 => some .falling
  | _ => none

/-- Start kinds (R19). -/
def startKindCode : StartKind → Nat
  | .reset => 0x00
  | .wrap => 0x01
  | .sync => 0x02
  | .flywheel => 0x03

/-- Edge classifications (R19). -/
def edgeClassCode : EdgeClass → Nat
  | .freeMode => 0x00
  | .onTime => 0x01
  | .early => 0x02
  | .late => 0x03

/-- Long action (R15). -/
def longActionCode : LongAction → Nat
  | .deliver => 0x00
  | .truncate => 0x01
  | .silence => 0x02

/-- Long action of a byte. -/
def longActionOf : Nat → Option LongAction
  | 0x00 => some .deliver
  | 0x01 => some .truncate
  | 0x02 => some .silence
  | _ => none

/-- Short action (R15). -/
def shortActionCode : ShortAction → Nat
  | .deliver => 0x00
  | .silence => 0x01

/-- Short action of a byte. -/
def shortActionOf : Nat → Option ShortAction
  | 0x00 => some .deliver
  | 0x01 => some .silence
  | _ => none

/-- Backoff (R15). -/
def backoffCode : Backoff → Nat
  | .doubling => 0x00
  | .flat => 0x01

/-- Backoff of a byte. -/
def backoffOf : Nat → Option Backoff
  | 0x00 => some .doubling
  | 0x01 => some .flat
  | _ => none

/-- Schedule mode (R18). -/
def scheduleModeCode : ScheduleMode → Nat
  | .periodic => 0x00
  | .oneShot => 0x01

/-- Schedule mode of a byte. -/
def scheduleModeOf : Nat → Option ScheduleMode
  | 0x00 => some .periodic
  | 0x01 => some .oneShot
  | _ => none

/-- Schedule entry states (R18). -/
def scheduleStateCode : ScheduleState → Nat
  | .empty => 0x00
  | .idle => 0x01
  | .armed => 0x02

/-- Flag numbers (R14). -/
def flagNumber : Flag → Fin 6
  | .cycleSlip => 0
  | .scheduleCut => 1
  | .syncLost => 2
  | .headOverrun => 3
  | .storeFull => 4
  | .fieldLineLoss => 5

/-- Counter positions (R14, R38, R39). -/
def counterPosition : Counter → Fin 30
  | .headGood => 0
  | .headCheckErrors => 1
  | .headMalformed => 2
  | .headOverrunDiscards => 3
  | .fieldGood => 4
  | .fieldCheckErrors => 5
  | .fieldMalformed => 6
  | .issuesSent => 7
  | .receiptsSent => 8
  | .receiptsDropped => 9
  | .outcomes .answered => 10
  | .outcomes .answeredShort => 11
  | .outcomes .answeredLong => 12
  | .outcomes .truncated => 13
  | .outcomes .noAnswer => 14
  | .outcomes .deferLimit => 15
  | .outcomes .expired => 16
  | .outcomes .cancelled => 17
  | .outcomes .lineLost => 18
  | .outcomes .sent => 19
  | .refusals => 20
  | .staleAnswers => 21
  | .lateAnswers => 22
  | .reportsAccepted => 23
  | .reportsHeld => 24
  | .reportsRefused => 25
  | .reportsRepeated => 26
  | .scheduleSkips => 27
  | .directivesTaken => 28
  | .unknownDirectives => 29

/-- The directive index (R13): codes other than Load Schedule Entry's carry the argument lengths given in the owning
meaning. -/
def directiveCodes : List Byte :=
  [0x01, 0x02, 0x03, 0x04, 0x05, 0x06, 0x07, 0x08, 0x09, 0x0A, 0x10, 0x11, 0x12, 0x13, 0x18, 0x19, 0x1A,
    0x20, 0x21, 0x22, 0x23, 0x24, 0x3F]

/-! ## The frame on the line -/

/-- One bit of the check computation: generator x^16 + x^12 + x^5 + 1 (R2). -/
def crcBit (c : BitVec 16) (b : Bool) : BitVec 16 :=
  if c.getLsbD 15 != b then (c <<< 1) ^^^ 0x1021 else c <<< 1

/-- One byte of the check computation, most significant bit first (R2). -/
def crcByte (c : BitVec 16) (x : Byte) : BitVec 16 :=
  [7, 6, 5, 4, 3, 2, 1, 0].foldl (fun c i => crcBit c (x.getLsbD i)) c

/-- The check value of the covered bytes: initial value FFFFh, result not inverted or reflected (R2). -/
def checkValue (bytes : List Byte) : BitVec 16 :=
  bytes.foldl crcByte 0xFFFF

/-- The two Check bytes, high byte first (R2). -/
def checkBytes (bytes : List Byte) : List Byte :=
  beBytes 2 (checkValue bytes).toNat

/-- The covered bytes of a frame, Kind to the last payload byte (R1). -/
def coveredBytes (f : Frame) : List Byte :=
  [kindCode f.kind, f.node, f.tag, f.function, byte f.payload.length] ++ f.payload

/-- The frame as a port builds it: Length set to the payload's length, Check computed (R1, R2). -/
def frameBytes (f : Frame) : List Byte :=
  coveredBytes f ++ checkBytes (coveredBytes f)

/-- The payload limit of a line (R1, R5). -/
def payloadLimit : Line → Nat
  | .head => 240
  | .field => 200

/-- The kinds a port accepts on its receive pair (R3). -/
def receivable : Line → FrameKind → Bool
  | .head, .request | .head, .directive => true
  | .field, .answer | .field, .defer | .field, .report => true
  | _, _ => false

/-- What the receive checks make of a frame (R5, R6). -/
inductive Verdict where
  | good (f : Frame)
  | checkError
  | malformed
  deriving DecidableEq, Repr

/-- The node and payload checks 5 to 9 of R5, on a frame of a known kind. -/
def frameChecks (line : Line) (f : Frame) : Bool :=
  receivable line f.kind &&
  decide (f.node.toNat ≤ 63) &&
  (match line with
    | .head => f.kind != .directive || f.node == 0
    | .field => f.node != 0 && f.node != 63) &&
  (f.kind != .defer || f.payload.length == 0 || f.payload.length == 4)

/-- The receive checks in table order (R5). Bytes too few to hold a Length fail check 1 (log 7). -/
def judgeBytes (line : Line) (bytes : List Byte) : Verdict :=
  let length := byteAt bytes 4
  if bytes.length ≠ 7 + length then .malformed
  else if bytes.drop (5 + length) ≠ checkBytes (bytes.take (5 + length)) then .checkError
  else if payloadLimit line < length then .malformed
  else
    match kindOfCode (bytes.getD 0 0) with
    | none => .malformed
    | some kind =>
      let f : Frame :=
        { kind := kind, node := bytes.getD 1 0, tag := bytes.getD 2 0, function := bytes.getD 3 0,
          payload := (bytes.drop 5).take length }
      if frameChecks line f then .good f else .malformed

/-- The hint of a DEFER's payload; an empty DEFER carries none (R9). -/
def deferHint (payload : List Byte) : Option Nat :=
  if payload.length = 4 then some (beNat payload) else none

/-! ## Policies -/

/-- The three key bytes (R15). -/
def keyImage (k : PolicyKey) : List Byte :=
  match k.function with
  | some f => [byte k.node, 0x00, f]
  | none => [byte k.node, 0x01, 0x00]

/-- A key read from three bytes, none when out of range (R43). -/
def keyOfImage (bytes : List Byte) : Option PolicyKey :=
  if bytes.length ≠ 3 then none
  else if 63 < byteAt bytes 0 then none
  else
    match byteAt bytes 1, byteAt bytes 2 with
    | 0, f => some { node := byteAt bytes 0, function := some (byte f) }
    | 1, 0 => some { node := byteAt bytes 0, function := none }
    | _, _ => none

/-- The 23-byte policy image (R15). -/
def policyImage (p : Policy) : List Byte :=
  keyImage p.key ++
  [byte p.nominal, byte p.minimum, byte p.maximum,
    byte (longActionCode p.longAction), byte (shortActionCode p.shortAction)] ++
  beBytes 4 p.answerWindow ++ beBytes 4 p.lifetime ++
  [byte p.deferLimit, byte p.silentLimit] ++
  beBytes 4 p.baseDelay ++
  [byte (backoffCode p.backoff)]

/-- Every field within its range of R42 and Minimum ≤ Nominal ≤ Maximum (R43). -/
def policyValid (p : Policy) : Bool :=
  decide (p.key.node ≤ 63) &&
  decide (p.minimum ≤ p.nominal ∧ p.nominal ≤ p.maximum ∧ p.maximum ≤ 200) &&
  decide (50 ≤ p.answerWindow ∧ p.answerWindow ≤ 1000000) &&
  decide (1000 ≤ p.lifetime ∧ p.lifetime ≤ 60000000) &&
  decide (p.deferLimit ≤ 15 ∧ p.silentLimit ≤ 3) &&
  decide (10 ≤ p.baseDelay ∧ p.baseDelay ≤ 1000000)

/-- A policy read from its image, none when the image is not valid (R43). -/
def policyOfImage (bytes : List Byte) : Option Policy :=
  if bytes.length ≠ 23 then none
  else
    match keyOfImage (bytes.take 3), longActionOf (byteAt bytes 6), shortActionOf (byteAt bytes 7),
      backoffOf (byteAt bytes 22) with
    | some key, some long, some short, some backoff =>
      let p : Policy :=
        { key := key, nominal := byteAt bytes 3, minimum := byteAt bytes 4, maximum := byteAt bytes 5,
          longAction := long, shortAction := short,
          answerWindow := fieldAt bytes 8 4, lifetime := fieldAt bytes 12 4,
          deferLimit := byteAt bytes 16, silentLimit := byteAt bytes 17,
          baseDelay := fieldAt bytes 18 4, backoff := backoff }
      if policyValid p then some p else none
    | _, _, _, _ => none

/-! ## Parameters -/

/-- The 12-byte parameter image (R14). -/
def parameterImage (p : Parameters) : List Byte :=
  [byte p.scheduleReserve, byte p.acyclicShare, byte (clockModeCode p.clockMode)] ++
  beBytes 3 p.cycleLength ++
  [byte (polarityCode p.syncPolarity), byte p.syncFilter] ++
  beBytes 2 p.syncTolerance ++
  [byte p.syncMissLimit, p.alertMask.setWidth 8]

/-- A cycle length is 1,000 to 10,000,000 ticks (R28). -/
def cycleLengthValid (l : Nat) : Bool :=
  decide (1000 ≤ l ∧ l ≤ 10000000)

/-- The ranges of R28, and the SYNC Tolerance below the Cycle Length of the image (R29). -/
def parametersValid (p : Parameters) : Bool :=
  decide (p.scheduleReserve ≤ 8) &&
  decide (1 ≤ p.acyclicShare ∧ p.acyclicShare ≤ 15) &&
  cycleLengthValid p.cycleLength &&
  decide (1 ≤ p.syncFilter ∧ p.syncFilter ≤ 8) &&
  decide (p.syncTolerance ≤ 65535 ∧ p.syncTolerance < p.cycleLength) &&
  decide (1 ≤ p.syncMissLimit ∧ p.syncMissLimit ≤ 15)

/-- Parameters read from their image, none when the image alone is out of range (R29). -/
def parametersOfImage (bytes : List Byte) : Option Parameters :=
  if bytes.length ≠ 12 then none
  else if 63 < byteAt bytes 11 then none
  else
    match clockModeOf (byteAt bytes 2), polarityOf (byteAt bytes 6) with
    | some mode, some polarity =>
      let p : Parameters :=
        { scheduleReserve := byteAt bytes 0, acyclicShare := byteAt bytes 1, clockMode := mode,
          cycleLength := fieldAt bytes 3 3, syncPolarity := polarity, syncFilter := byteAt bytes 7,
          syncTolerance := fieldAt bytes 8 2, syncMissLimit := byteAt bytes 10,
          alertMask := BitVec.ofNat 6 (byteAt bytes 11) }
      if parametersValid p then some p else none
    | _, _ => none

/-- The result of Read Parameters (R14, R31). -/
def parametersResult (p : Parameters) (staged : Option Nat) : List Byte :=
  parameterImage p ++ [boolByte staged.isSome] ++ beBytes 3 (staged.getD 0)

/-! ## Schedule entries -/

/-- The 41-byte entry image: the load argument's bytes 1 to 9 and a 32-byte template area (R18). -/
def fieldsImage (e : ScheduleFields) : List Byte :=
  [byte (scheduleModeCode e.mode), byte e.node, e.function] ++
  beBytes 3 e.phase ++
  [byte e.divisor, byte e.offset, byte e.template.length] ++
  e.template ++ List.replicate (32 - e.template.length) 0

/-- An optional entry image, all 0 when absent (R18). -/
def fieldsImage? : Option ScheduleFields → List Byte
  | some e => fieldsImage e
  | none => List.replicate 41 0

/-- The argument of Load Schedule Entry (R18). -/
def loadEntryImage (i : EntryIndex) (e : ScheduleFields) : List Byte :=
  [byte i.val, byte (scheduleModeCode e.mode), byte e.node, e.function] ++
  beBytes 3 e.phase ++
  [byte e.divisor, byte e.offset, byte e.template.length] ++
  e.template

/-- The ranges of R163 that do not depend on the part's state. -/
def scheduleFieldsValid (e : ScheduleFields) : Bool :=
  decide (1 ≤ e.node ∧ e.node ≤ 62) &&
  decide (1 ≤ e.divisor ∧ e.divisor ≤ 64 ∧ e.offset < e.divisor) &&
  decide (e.template.length ≤ 32)

/-- An entry index of one byte, none when above 31 (R18). -/
def entryIndexOf (n : Nat) : Option EntryIndex :=
  if h : n < 32 then some ⟨n, h⟩ else none

/-- The argument of Load Schedule Entry read, none when it is out of range whatever the state; the phase is judged
by the directive (R163). -/
def loadEntryOfImage (bytes : List Byte) : Option (EntryIndex × ScheduleFields) :=
  if bytes.length < 10 ∨ 42 < bytes.length ∨ bytes.length ≠ 10 + byteAt bytes 9 then none
  else
    match entryIndexOf (byteAt bytes 0), scheduleModeOf (byteAt bytes 1) with
    | some i, some mode =>
      let e : ScheduleFields :=
        { mode := mode, node := byteAt bytes 2, function := byte (byteAt bytes 3), phase := fieldAt bytes 4 3,
          divisor := byteAt bytes 7, offset := byteAt bytes 8, template := bytes.drop 10 }
      if scheduleFieldsValid e then some (i, e) else none
    | _, _ => none

/-- The 113-byte result of Read Schedule Entry (R18, R166). -/
def scheduleResult (e : ScheduleEntry) : List Byte :=
  [byte (scheduleStateCode e.state), boolByte e.fired, boolByte e.openSlot.isSome,
    byte ((e.openSlot.map Fin.val).getD 0)] ++
  fieldsImage? e.live ++
  [boolByte e.staged.isSome] ++
  fieldsImage? e.staged ++
  beBytes 4 e.fires.toNat ++ beBytes 4 e.overlapSkips.toNat ++ beBytes 4 e.noSlotSkips.toNat ++
  beBytes 4 e.noPolicySkips.toNat ++ beBytes 4 e.cuts.toNat ++
  [boolByte e.lastFire.isSome] ++
  segmentBytes? e.lastFire

/-! ## Exchanges and nodes -/

/-- The 24-byte outcome record (R10). -/
def outcomeRecord (slot : Slot) (e : Exchange) : List Byte :=
  [byte (originCode e.origin), byte ((e.outcome.map outcomeCode).getD 0), byte slot.val,
    byte e.issueCount, byte e.deferCount, byte e.silentCount] ++
  segmentBytes? e.firstIssue ++
  segmentBytes? (e.answer.map AnswerFields.time) ++
  beBytes 4 ((e.answer.map AnswerFields.latency).getD 0) ++
  signedBytes ((e.answer.map AnswerFields.residue).getD 0) ++
  [byte ((e.answer.map AnswerFields.length).getD 0),
    bitsByte [e.firstIssue.isSome, e.answer.isSome, e.truncated]]

/-- The delivered payload: the slot buffer for the answered family, no bytes for every other outcome (R10, R56). -/
def deliveredPayload (e : Exchange) : List Byte :=
  if e.answer.isSome then e.buffer else []

/-- The OUTCOME frame of a concluded exchange (R4, R10). -/
def outcomeFrame (slot : Slot) (e : Exchange) : Frame :=
  { kind := .outcome, node := byte e.node, tag := originTag e.origin, function := e.function,
    payload := outcomeRecord slot e ++ deliveredPayload e }

/-- The 81-byte exchange image (R16, R67). -/
def exchangeImage : Option Exchange → List Byte
  | none => List.replicate 81 0
  | some e =>
    [byte (exchangeStateCode e.state), byte (originCode e.origin), originTag e.origin, byte e.node, e.function,
      byte e.buffer.length] ++
    beBytes 4 e.admissionSeq.toNat ++
    beBytes 6 e.admissionTime.toNat ++
    beBytes 2 e.admissionCycle.toNat ++
    [byte e.issueCount, byte e.deferCount, byte e.silentCount, byte ((e.outcome.map outcomeCode).getD 0),
      bitsByte [e.firstIssue.isSome, e.lastCompletion.isSome, e.answerDue.isSome, e.reissueDue.isSome,
        e.answer.isSome, e.truncated]] ++
    segmentBytes? e.firstIssue ++
    monoBytes? e.lastCompletion ++
    monoBytes? (e.answerDue.orElse fun _ => e.reissueDue) ++
    beBytes 6 e.lifetimeEnd.toNat ++
    [byte ((e.answer.map AnswerFields.length).getD 0)] ++
    signedBytes ((e.answer.map AnswerFields.residue).getD 0) ++
    segmentBytes? (e.answer.map AnswerFields.time) ++
    beBytes 4 ((e.answer.map AnswerFields.latency).getD 0) ++
    policyImage e.snapshot

/-- Byte 1 of the node image: issued slot when OCCUPIED, held slot when HELD, FFh otherwise (R68). -/
def nodeSlotByte : NodeState → Byte
  | .occupied slot => byte slot.val
  | .held slot => byte slot.val
  | .idle => 0xFF
  | .quiet _ => 0xFF

/-- Quiet-until, present only in QUIET and once set (R64, R68). -/
def quietUntil : NodeState → Option Mono
  | .quiet t => t
  | _ => none

/-- The 23-byte node image, with the node's PARKED and RELEASED store entries counted (R16, R68). -/
def nodeImage (e : NodeEntry) (parked released : Nat) : List Byte :=
  [byte (nodeStateCode e.state), nodeSlotByte e.state, e.issueNumber,
    bitsByte [(quietUntil e.state).isSome, e.lastSequence.isSome]] ++
  monoBytes? (quietUntil e.state) ++
  beBytes 4 e.lastLatency ++ beBytes 4 e.maxLatency ++
  [byte e.credit, e.lastSequence.getD 0, byte (noticeStateCode e.notice), byte parked, byte released]

/-! ## North frames and field frames -/

/-- A REFUSAL echoes Node, Tag and Function as received (R4, R11, R79). -/
def refusalFrame (request : Frame) (code : RefusalCode) : Frame :=
  { kind := .refusal, node := request.node, tag := request.tag, function := request.function,
    payload := [byte (refusalCode code)] }

/-- An ACKNOWLEDGE echoes directive number and code and carries status and result (R13, R24). -/
def acknowledgeFrame (directive : Frame) (status : AckStatus) (result : List Byte) : Frame :=
  { kind := .acknowledge, node := 0, tag := directive.tag, function := directive.function,
    payload := byte (statusCode status) :: result }

/-- A GRANT WANTED notice: node, and the number of its PARKED entries (R11, R142). -/
def grantWantedFrame (node parked : Nat) : Frame :=
  { kind := .notice, node := byte node, tag := 0, function := grantWantedCode, payload := [byte parked] }

/-- The set of raised flags, bit n for flag n (R11). -/
def raisedByte (flags : Vector FlagRecord 6) : Byte :=
  bitsByte (flags.toList.map FlagRecord.raised)

/-- A FLAGS RAISED notice: the flags raised (R11, R34). -/
def flagsRaisedFrame (flags : Vector FlagRecord 6) : Frame :=
  { kind := .notice, node := 0, tag := 0, function := flagsRaisedCode, payload := [raisedByte flags] }

/-- Whether a frame is a FLAGS RAISED notice (R34). -/
def isFlagsRaised (f : Frame) : Bool :=
  f.kind == .notice && f.function == flagsRaisedCode

/-- A REPORT DELIVERY: arrival segment time, entry index, report payload (R12). -/
def reportDeliveryFrame (entry : StoreIndex) (r : StoredReport) : Frame :=
  { kind := .reportDelivery, node := byte r.node, tag := r.sequence, function := r.function,
    payload := segmentBytes r.arrival ++ [byte entry.val] ++ r.payload }

/-- An ISSUE: the exchange's node and function, the issue number and the slot buffer (R4, R9, R91). -/
def issueFrame (e : Exchange) (issueNumber : Byte) : Frame :=
  { kind := .issue, node := byte e.node, tag := issueNumber, function := e.function, payload := e.buffer }

/-- A RECEIPT: node, report sequence and receipt kind, empty payload (R4, R9, R86). -/
def receiptFrame (r : Receipt) : Frame :=
  { kind := .receipt, node := byte r.node, tag := r.sequence, function := byte (receiptCode r.kind), payload := [] }

/-! ## Results of the Directive unit and the Timebase -/

/-- The 14-byte identity (R14, R27). -/
def identityResult : List Byte :=
  [0x4C, 0x52, 0x32, 0x34, 0x01, 0x18, 0x80, 0x20, 0x10, 0x08, 0x04, 0x18, 0x10, 0x08]

/-- The 26-byte result of Read Flags (R14, R35). -/
def flagsResult (event : BitVec 16) (flags : Vector FlagRecord 6) : List Byte :=
  beBytes 2 event.toNat ++
  flags.toList.flatMap fun r => boolByte r.raised :: beBytes 2 r.stamp.toNat ++ [r.count]

/-- The 120-byte result of Read Counters (R14, R37). -/
def countersResult (counters : Vector (BitVec 32) 30) : List Byte :=
  counters.toList.flatMap fun c => beBytes 4 c.toNat

/-- The capture part of the Timebase result, bytes 14 to 27 (R19). -/
def captureResult : Option Capture → List Byte
  | none => List.replicate 14 0
  | some c =>
    [1] ++ beBytes 2 c.cycle.toNat ++ beBytes 3 c.phase ++ beBytes 6 c.time.toNat ++
    [byte (edgeClassCode c.classification), boolByte c.currentCycle]

/-- The 28-byte result of Read Timebase (R19, R153). -/
def timebaseResult (s : State) : List Byte :=
  beBytes 6 s.now.toNat ++ beBytes 2 s.cycle.toNat ++ beBytes 3 s.phase ++
  [byte (startKindCode s.startKind), byte s.missRun, boolByte s.lossRaised] ++
  captureResult s.capture

end Sys2Proof.Machine
end

