-- ==== Sys2Proof/Machine/Flags.lean ====
section
/-! DEFINITION. Every flag and counter computation of the LR24: raising (R33), the FLAGS RAISED notice owed (R34),
clearing by stamp (R36) and the counters (R37). -/

namespace Sys2Proof.Machine

/-- The next flag event number: it wraps from 65535 to 1 (R33). -/
def nextFlagEvent (n : BitVec 16) : BitVec 16 :=
  if n = 65535 then 1 else n + 1

/-- The raise count rises by 1, and stays at 255 (R33). -/
def nextRaiseCount (c : BitVec 8) : BitVec 8 :=
  if c = 255 then 255 else c + 1

/-- A flag's record. -/
def State.flag (s : State) (f : Flag) : FlagRecord :=
  s.flags[flagNumber f]

/-- A raise of a flag (R33): a new flag event number, the record, and FLAGS RAISED owed for a masked flag (R34). -/
def State.raiseFlag (s : State) (f : Flag) : State :=
  { s with
    flagEvent := nextFlagEvent s.flagEvent
    flags := s.flags.set (flagNumber f)
      { raised := true, stamp := nextFlagEvent s.flagEvent, count := nextRaiseCount (s.flag f).count }
    flagsOwed := s.flagsOwed || s.params.alertMask.getLsbD (flagNumber f) }

/-- A raise made only when its cause holds. -/
def State.raiseFlagIf (s : State) (cause : Bool) (f : Flag) : State :=
  if cause then s.raiseFlag f else s

/-- A counter rises by 1, wrapping (R37). -/
def State.tally (s : State) (c : Counter) : State :=
  { s with counters := s.counters.set (counterPosition c) (s.counters[counterPosition c] + 1) }

/-- A counter's value. -/
def State.counter (s : State) (c : Counter) : BitVec 32 :=
  s.counters[counterPosition c]

/-- What Clear Flags makes of one pair (R36): the record after it and the result byte. -/
def clearPair (r : FlagRecord) (stamp : Nat) : FlagRecord × Byte :=
  if r.raised then
    if r.stamp.toNat = stamp then (FlagRecord.clear, 0x00) else (r, 0x01)
  else (r, 0x02)

/-- The pairs of a Clear Flags argument: flag number and 2-byte stamp (R14). -/
def clearPairs : List Byte → List (Nat × Nat)
  | f :: hi :: lo :: rest => (f.toNat, beNat [hi, lo]) :: clearPairs rest
  | _ => []

/-- Clearing pair by pair, in the order of the pairs (R36): the records after it and one result byte per pair. -/
def clearFlagPairs (flags : Vector FlagRecord 6) : List (Nat × Nat) → Vector FlagRecord 6 × List Byte
  | [] => (flags, [])
  | (f, stamp) :: rest =>
    if h : f < 6 then
      let cleared := clearPair flags[f] stamp
      let after := clearFlagPairs (flags.set f cleared.1) rest
      (after.1, cleared.2 :: after.2)
    else clearFlagPairs flags rest

end Sys2Proof.Machine
end

