-- ==== Sys2Proof/Machine/Ops.lean ====
section
/-! DEFINITION. The named operations over the records of the part: times and ages, slots, nodes, the pending order and the
deferral list, policies, admission of an exchange, conclusion, silence and deferral, the Delivery List, receipts and
store entries. Every meaning is written over these. -/

namespace Sys2Proof.Machine

/-! ## Times and ages -/

/-- Whether the monotonic count has reached a time: modular difference, within half the range (R147, log 21). -/
def reached (now time : Mono) : Bool :=
  decide ((now - time).toNat < 2 ^ 47)

/-- An optional time that is present and reached. -/
def reached? (now : Mono) : Option Mono → Bool
  | some t => reached now t
  | none => false

/-- A reading plus a duration in ticks (R147). -/
def after (time : Mono) (ticks : Nat) : Mono :=
  time + BitVec.ofNat 48 ticks

/-- Exchange a is older than b when (b − a) modulo 2^32 lies between 1 and 2^31 − 1 (R58). -/
def olderSeq (a b : AdmissionSeq) : Bool :=
  decide (1 ≤ (b - a).toNat ∧ (b - a).toNat < 2 ^ 31)

/-- The segment clock as it stands (R158). -/
def State.segmentTime (s : State) : SegmentTime :=
  { cycle := s.cycle, phase := s.phase }

/-! ## Slots -/

/-- The 24 slots, lowest first. -/
def allSlots : List Slot := List.finRange 24

/-- The exchange in a slot; none when the slot is FREE. -/
def State.slot (s : State) (i : Slot) : Option Exchange := s.slots[i]

/-- Writing a slot. -/
def State.setSlot (s : State) (i : Slot) (e : Option Exchange) : State :=
  { s with slots := s.slots.set i e }

/-- The number of FREE slots (R53). -/
def State.freeSlots (s : State) : Nat :=
  allSlots.countP fun i => (s.slot i).isNone

/-- The lowest-numbered FREE slot (R53, R76). -/
def State.lowestFree (s : State) : Option Slot :=
  allSlots.find? fun i => (s.slot i).isNone

/-- Insertion before the first element that satisfies `before`. -/
def insertBefore (before : Slot → Bool) (i : Slot) : List Slot → List Slot
  | [] => [i]
  | j :: rest => if before j then i :: j :: rest else j :: insertBefore before i rest

/-- Whether slot j holds an exchange younger than the sequence given. -/
def State.younger (s : State) (seq : AdmissionSeq) (j : Slot) : Bool :=
  match s.slot j with
  | some e => olderSeq seq e.admissionSeq
  | none => false

/-- The slots that satisfy a test, oldest first by admission sequence (R119, R123). -/
def State.slotsByAge (s : State) (test : Exchange → Bool) : List Slot :=
  allSlots.foldl
    (fun acc i =>
      match s.slot i with
      | some e => if test e then insertBefore (s.younger e.admissionSeq) i acc else acc
      | none => acc)
    []

/-! ## The pending order and the deferral list -/

/-- The pending order with a slot at the position its admission sequence gives (R59). -/
def State.pendingWith (s : State) (i : Slot) (seq : AdmissionSeq) : List Slot :=
  insertBefore (s.younger seq) i s.pendingOrder

/-- Whether slot j's reissue-due comes after the one given, equal times being ordered by admission sequence; times are
compared by modular difference from the monotonic count (R60). -/
def State.dueAfter (s : State) (due : Mono) (seq : AdmissionSeq) (j : Slot) : Bool :=
  match s.slot j with
  | some e =>
    match e.reissueDue with
    | some other =>
      decide ((due - s.now).toNat < (other - s.now).toNat) || (due == other && olderSeq seq e.admissionSeq)
    | none => false
  | none => false

/-- The deferral list with a slot at the position its reissue-due gives (R60). -/
def State.deferralWith (s : State) (i : Slot) (due : Mono) (seq : AdmissionSeq) : List Slot :=
  insertBefore (s.dueAfter due seq) i s.deferralList

/-! ## Nodes -/

/-- The place of a field node's entry; nodes 0 and 63 and any other number have none (R62). -/
def nodeIndex (n : Nat) : Option (Fin 62) :=
  if h : 1 ≤ n ∧ n ≤ 62 then some ⟨n - 1, by omega⟩ else none

/-- The 62 field nodes (R62). -/
def allNodes : List Nat := (List.finRange 62).map fun i => i.val + 1

/-- A field node's entry; a number that is no field node reads as an entry after RESET#, which no meaning relies on. -/
def State.node (s : State) (n : Nat) : NodeEntry :=
  match nodeIndex n with
  | some i => s.nodes[i]
  | none => NodeEntry.initial

/-- The Node Table with one field node's entry changed; a number that is no field node changes nothing. -/
def changeNode (nodes : Vector NodeEntry 62) (n : Nat) (f : NodeEntry → NodeEntry) : Vector NodeEntry 62 :=
  match nodeIndex n with
  | some i => nodes.set i (f nodes[i])
  | none => nodes

/-- Changing a node entry. -/
def State.updateNode (s : State) (n : Nat) (f : NodeEntry → NodeEntry) : State :=
  { s with nodes := changeNode s.nodes n f }

/-- A node transition (R63). -/
def State.setNodeState (s : State) (n : Nat) (st : NodeState) : State :=
  s.updateNode n fun e => { e with state := st }

/-- The node's last and maximum latency after an answer of its issued exchange (R65). -/
def State.noteLatency (s : State) (n latency : Nat) : State :=
  s.updateNode n fun e => { e with lastLatency := latency, maxLatency := max e.maxLatency latency }

/-! ## Policies -/

/-- The place of a key in the canonical order of the table, whose order the part does not use (log 11). -/
def keyRank (k : PolicyKey) : Nat :=
  k.node * 257 + match k.function with
    | none => 0
    | some f => f.toNat + 1

/-- The entry with exactly this key (R41). -/
def findPolicy (table : List Policy) (k : PolicyKey) : Option Policy :=
  table.find? fun p => p.key == k

/-- The table with an entry stored under its key, replacing the entry with that key (R47). -/
def storePolicy (p : Policy) : List Policy → List Policy
  | [] => [p]
  | q :: rest =>
    if q.key = p.key then p :: rest
    else if keyRank p.key < keyRank q.key then p :: q :: rest
    else q :: storePolicy p rest

/-- The table without the entry with this key (R48). -/
def dropPolicyKey (table : List Policy) (k : PolicyKey) : List Policy :=
  table.filter fun p => p.key != k

/-- The keys a lookup tries, in order (R44, R45). -/
def lookupKeys (node : Nat) (function : Byte) : List PolicyKey :=
  [{ node := node, function := some function }, { node := node, function := none },
    { node := 0, function := some function }, { node := 0, function := none }]

/-- The matching entry (R44, R45). -/
def lookupPolicy (table : List Policy) (node : Nat) (function : Byte) : Option Policy :=
  (lookupKeys node function).findSome? (findPolicy table)

/-! ## Admission of an exchange -/

/-- The record of a newly admitted exchange (R77, R82). -/
def admittedRecord (s : State) (origin : Origin) (node : Nat) (function : Byte) (payload : List Byte)
    (policy : Policy) : Exchange :=
  { state := .waiting, origin := origin, node := node, function := function, buffer := payload,
    admissionSeq := s.admissionCounter, admissionTime := s.now, admissionCycle := s.cycle,
    snapshot := policy, lifetimeEnd := after s.now policy.lifetime, lifetimeArmed := true,
    issueCount := 0, deferCount := 0, silentCount := 0,
    firstIssue := none, lastCompletion := none, answerDue := none, reissueDue := none,
    outcome := none, answer := none, truncated := false }

/-- Opening an exchange in a slot: the record, the next admission sequence, and the last position of the pending order
(R58, R59, R76 to R78). -/
def State.openExchange (s : State) (i : Slot) (origin : Origin) (node : Nat) (function : Byte)
    (payload : List Byte) (policy : Policy) : State :=
  { s with
    slots := s.slots.set i (some (admittedRecord s origin node function payload policy))
    admissionCounter := s.admissionCounter + 1
    pendingOrder := s.pendingOrder ++ [i] }

/-! ## The Delivery List -/

/-- An item joins the back of the list (R173). -/
def State.join (s : State) (item : Item) : State :=
  { s with delivery := s.delivery ++ [item] }

/-- Whether an item holds a control place (R172). -/
def Item.isControl : Item → Bool
  | .control _ => true
  | _ => false

/-- The number of control places in use (R172). -/
def State.controlUsed (s : State) : Nat :=
  s.delivery.countP Item.isControl

/-- Whether a control place is free (R174). -/
def State.controlFree (s : State) : Bool :=
  decide (s.controlUsed < Config.controlPlaces)

/-- Placing a control record (R173). -/
def State.place (s : State) (f : Frame) : State :=
  s.join (.control f)

/-! ## Conclusion -/

/-- The record at its conclusion: outcome code, CONCLUDED, every timer disarmed (R101). -/
def concludedRecord (e : Exchange) (o : OutcomeCode) : Exchange :=
  { e with
    state := .concluded, outcome := some o, lifetimeArmed := false, answerDue := none, reissueDue := none }

/-- The conclusion procedure (R101), but for the node effect, which the concluding rule gives. -/
def State.conclude (s : State) (i : Slot) (e : Exchange) (o : OutcomeCode) : State :=
  State.tally
    { s with
      slots := s.slots.set i (some (concludedRecord e o))
      pendingOrder := s.pendingOrder.filter (· != i)
      deferralList := s.deferralList.filter (· != i)
      delivery := s.delivery ++ [.conclusion i] }
    (.outcomes o)

/-- An exchange becomes DEFERRED until a time, and its node HELD by it (R60, R105, R108). -/
def State.becomeDeferred (s : State) (i : Slot) (e : Exchange) (due : Mono) : State :=
  State.setNodeState
    { s with
      slots := s.slots.set i
        (some { e with state := .deferred, answerDue := none, reissueDue := some due })
      deferralList := s.deferralWith i due e.admissionSeq }
    e.node (.held i)

/-- An exchange becomes READY and joins the pending order at its admission position (R59, R107, R122). -/
def State.becomeReady (s : State) (i : Slot) (e : Exchange) : State :=
  { s with
    slots := s.slots.set i (some { e with state := .ready, answerDue := none, reissueDue := none })
    deferralList := s.deferralList.filter (· != i)
    pendingOrder := s.pendingWith i e.admissionSeq }

/-- A silence of an ISSUED exchange, taken now (R104, R108). -/
def State.takeSilence (s : State) (i : Slot) (e : Exchange) : State :=
  if e.snapshot.silentLimit < e.silentCount + 1 then
    (s.conclude i { e with silentCount := e.silentCount + 1 } .noAnswer).setNodeState e.node .idle
  else
    s.becomeDeferred i { e with silentCount := e.silentCount + 1 } (after s.now e.snapshot.baseDelay)

/-- The end of an exchange by lifetime end or by cancel, with its node effect by state (R110, R118). -/
def State.endExchange (s : State) (i : Slot) (e : Exchange) (o : OutcomeCode) : State :=
  match e.state with
  | .waiting => s.conclude i e o
  | .issued =>
    if e.node = Config.broadcastNode then s
    else (s.conclude i e o).setNodeState e.node (.quiet e.answerDue)
  | .deferred => (s.conclude i e o).setNodeState e.node .idle
  | .ready => (s.conclude i e o).setNodeState e.node .idle
  | .concluded => s

/-- What the field line's change to DOWN does to one exchange (R122). -/
def State.loseIssue (s : State) (i : Slot) : State :=
  match s.slot i with
  | some e =>
    if e.state ≠ .issued then s
    else if e.node = Config.broadcastNode then s.conclude i e .lineLost
    else if e.snapshot.silentLimit < e.silentCount + 1 then
      (s.conclude i { e with silentCount := e.silentCount + 1 } .lineLost).setNodeState e.node .idle
    else
      (s.becomeReady i { e with silentCount := e.silentCount + 1 }).setNodeState e.node (.held i)
  | none => s

/-! ## The Report Store and the Receipt Queue -/

/-- The 16 store entries, lowest first. -/
def allEntries : List StoreIndex := List.finRange 16

/-- The report in a store entry; none when the entry is FREE. -/
def State.stored (s : State) (k : StoreIndex) : Option StoredReport := s.store[k]

/-- The lowest-numbered FREE store entry (R130). -/
def State.lowestFreeEntry (s : State) : Option StoreIndex :=
  allEntries.find? fun k => (s.stored k).isNone

/-- The number of a node's store entries that are RELEASED, or PARKED (R130). -/
def State.storeCount (s : State) (n : Nat) (released : Bool) : Nat :=
  allEntries.countP fun k =>
    match s.stored k with
    | some r => r.node == n && r.released == released
    | none => false

/-- A receipt becomes owed, or is dropped at a full queue (R136). -/
def State.oweReceipt (s : State) (r : Receipt) : State :=
  if s.receipts.length < Config.receiptCapacity then { s with receipts := s.receipts ++ [r] }
  else s.tally .receiptsDropped

/-- A node's place at the back of the owed-notice order, once (R141). -/
def oweNotice (order : List Nat) (n : Nat) : List Nat :=
  if n ∈ order then order else order ++ [n]

/-! ## The queue -/

/-- The tick. -/
def isTick : Instr → Bool
  | .tick _ _ _ _ => true
  | _ => false

/-- A node's ANSWER or DEFER. -/
def isReply : Instr → Bool
  | .answerArrival _ _ _ _ | .deferArrival _ _ _ _ => true
  | _ => false

/-- A node's REPORT. -/
def isReport : Instr → Bool
  | .reportArrival _ _ _ _ => true
  | _ => false

/-- The commands that wait in the queue before the next tick: they fall at the present tick (log 1). -/
def State.thisTick (s : State) : List Instr :=
  s.pending.takeWhile fun c => !isTick c

/-! ## Outcomes of a command -/

/-- An event that comes about only under its conditions; otherwise the state stays as it is (log 2). -/
def State.whenever (s : State) (condition : Bool) (s' : State) : Host.Outcome State Fault Refusal :=
  if condition then .next s' else .next s

end Sys2Proof.Machine
end

