-- ==== Sys2Proof/Machine/Admission.lean ====
section
/-! DEFINITION. Admission (chapter 5) and the taking of a REQUEST from the Head Intake (R21, R22, R75). -/

namespace Sys2Proof.Machine

/-- Admission's verdict (R70). -/
inductive AdmissionVerdict where
  | accept (p : Policy)
  | refuse (code : RefusalCode)
  deriving DecidableEq, Repr

/-- Whether an open HEAD-origin exchange carries a head tag (R53, R72). -/
def State.tagHeld (s : State) (tag : Byte) : Bool :=
  allSlots.any fun i =>
    match s.slot i with
    | some e => e.origin == .head tag
    | none => false

/-- The six checks, the first that fails deciding (R70 to R74, R80). -/
def State.judgeRequest (s : State) (f : Frame) : AdmissionVerdict :=
  if 63 < f.tag.toNat then .refuse .badTag
  else if f.node = 0 then .refuse .badNode
  else if 200 < f.payload.length then .refuse .tooLong
  else if s.tagHeld f.tag then .refuse .tagInUse
  else
    match lookupPolicy s.policies f.node.toNat f.function with
    | none => .refuse .noPolicy
    | some p => if s.freeSlots < s.params.scheduleReserve + 1 then .refuse .tableFull else .accept p

/-- Whether the intake's first frame claims a control place: a DIRECTIVE, or a REQUEST that Admission would refuse as
the part stands (R174). -/
def State.intakeClaims (s : State) : Bool :=
  match s.intake with
  | [] => false
  | f :: _ =>
    f.kind != .request ||
      (match s.judgeRequest f with
        | .accept _ => false
        | .refuse _ => true)

/-- Whether the intake's first frame can be completed (R21). -/
def State.takeReady (s : State) : Bool :=
  !s.intake.isEmpty && (!s.intakeClaims || s.controlFree)

/-- A control place is free and a claim waits: the place is being handed (R174). Handing, and the taking or the placing it
allows, are one event with the freeing or the claim that brought it about, so nothing else is taken before it (log 24). -/
def State.handing (s : State) : Bool :=
  s.controlFree && (s.intakeClaims || s.flagsOwed || !s.owedOrder.isEmpty)

/-- An event other than the handing of a control place: it comes about only under its condition, and only when no control place
is being handed (R174, log 24). -/
def State.inTurn (s : State) (condition : Bool) (s' : State) : Host.Outcome State Fault Refusal :=
  s.whenever (condition && !s.handing) s'

/-- The taking of an admissible REQUEST: an exchange opens in the lowest FREE slot (R22, R76). -/
def State.admission (s : State) : Option State :=
  match s.intake with
  | [] => none
  | f :: rest =>
    if f.kind ≠ .request then none
    else
      match s.judgeRequest f, s.lowestFree with
      | .accept p, some i =>
        some (State.openExchange { s with intake := rest } i (.head f.tag) f.node.toNat f.function f.payload p)
      | _, _ => none

/-- The taking of a REQUEST that Admission refuses: its REFUSAL is placed (R22, R79). -/
def State.refusal (s : State) : Option State :=
  match s.intake with
  | [] => none
  | f :: rest =>
    if f.kind ≠ .request then none
    else
      match s.judgeRequest f with
      | .refuse code => some ((State.tally { s with intake := rest } .refusals).place (refusalFrame f code))
      | .accept _ => none

/-- TAKE_REQUEST (R22, R75, R76, R79): a REQUEST that Admission admits opens an exchange in the lowest FREE slot; one that
it refuses has its REFUSAL placed when a control place is available to it, and otherwise waits. An admissible REQUEST makes
no claim, and a notice that is being handed a place is placed before it is taken (R174). -/
def execTakeRequest (s : State) : Host.Outcome State Fault Refusal :=
  match s.admission, s.refusal with
  | some t, _ => s.inTurn true t
  | none, some t => s.whenever s.controlFree t
  | none, none => .next s

end Sys2Proof.Machine
end

