-- ==== Sys2Proof/Machine/Answers.lean ====
section
/-! DEFINITION. Answers and defers (chapter 7): matching, the length verdict, deferral, and the timers of an exchange and of
a QUIET node. -/

namespace Sys2Proof.Machine

/-! ## Matching -/

/-- What a node's ANSWER or DEFER is (R99). -/
inductive Match where
  | matching (i : Slot) (e : Exchange)
  | stale
  | late
  deriving DecidableEq, Repr

/-- The judgement by Node and Tag against the node's entry (R99). -/
def State.matchFrame (s : State) (node : Nat) (tag : Byte) : Match :=
  match (s.node node).state with
  | .occupied i =>
    match s.slot i with
    | some e =>
      if e.state == .issued && e.answerDue.isSome && tag == (s.node node).issueNumber then .matching i e
      else .stale
    | none => .stale
  | .quiet _ => if tag == (s.node node).issueNumber then .late else .stale
  | .idle => .stale
  | .held _ => .stale

/-- A stale frame is discarded and counted (R100). -/
def State.takeStale (s : State) : State :=
  s.tally .staleAnswers

/-- A late frame is counted and discarded, and QUIET ends (R97). -/
def State.takeLate (s : State) (node : Nat) : State :=
  (s.setNodeState node .idle).tally .lateAnswers

/-! ## The length verdict -/

/-- What the verdict of R102 makes of a matching ANSWER. -/
inductive LengthVerdict where
  | concludes (o : OutcomeCode)
  | silence
  deriving DecidableEq, Repr

/-- The length verdict against the policy snapshot (R102). -/
def lengthVerdict (p : Policy) (length : Nat) : LengthVerdict :=
  if length < p.minimum then
    match p.shortAction with
    | .deliver => .concludes .answeredShort
    | .silence => .silence
  else if p.maximum < length then
    match p.longAction with
    | .deliver => .concludes .answeredLong
    | .truncate => .concludes .truncated
    | .silence => .silence
  else .concludes .answered

/-- The latency of an answer: its arrival less the last issue completion (R65, R103). -/
def answerLatency (s : State) (e : Exchange) : Nat :=
  (s.now - e.lastCompletion.getD s.now).toNat

/-- The record of an answered exchange: answer fields, truncated, and the answer in the slot buffer (R56, R103). -/
def answeredRecord (s : State) (e : Exchange) (payload : List Byte) (o : OutcomeCode) : Exchange :=
  { e with
    answer := some
      { length := payload.length, residue := (payload.length : Int) - (e.snapshot.nominal : Int),
        time := s.segmentTime, latency := answerLatency s e }
    truncated := o == .truncated
    buffer := if o = .truncated then payload.take e.snapshot.maximum else payload }

/-- A matching ANSWER (R65, R102 to R104). -/
def State.takeAnswer (s : State) (i : Slot) (e : Exchange) (payload : List Byte) : State :=
  let s1 := s.noteLatency e.node (answerLatency s e)
  match lengthVerdict e.snapshot payload.length with
  | .concludes o => (s1.conclude i (answeredRecord s e payload o) o).setNodeState e.node .idle
  | .silence => s1.takeSilence i e

/-- An ANSWER handed on by the field port (R99). -/
def State.answerArrives (s : State) (f : Frame) : State :=
  match s.matchFrame f.node.toNat f.tag with
  | .matching i e => s.takeAnswer i e f.payload
  | .stale => s.takeStale
  | .late => s.takeLate f.node.toNat

/-! ## Deferral -/

/-- The computed delay of the d-th DEFER: doubling held at 16 × b, or flat (R106). -/
def computedDelay (p : Policy) (d : Nat) : Nat :=
  match p.backoff with
  | .doubling => min (p.baseDelay * 2 ^ (d - 1)) (16 * p.baseDelay)
  | .flat => p.baseDelay

/-- The reissue delay after the d-th DEFER with its hint (R106). -/
def reissueDelay (p : Policy) (d : Nat) (hint : Option Nat) : Nat :=
  match hint with
  | none => computedDelay p d
  | some h => if h ≤ computedDelay p d then computedDelay p d else min h (16 * p.baseDelay)

/-- A matching DEFER (R105). -/
def State.takeDefer (s : State) (i : Slot) (e : Exchange) (hint : Option Nat) : State :=
  if e.snapshot.deferLimit < e.deferCount + 1 then
    (s.conclude i { e with deferCount := e.deferCount + 1 } .deferLimit).setNodeState e.node .idle
  else
    s.becomeDeferred i { e with deferCount := e.deferCount + 1 }
      (after s.now (reissueDelay e.snapshot (e.deferCount + 1) hint))

/-- A DEFER handed on by the field port (R99, R105). -/
def State.deferArrives (s : State) (f : Frame) : State :=
  match s.matchFrame f.node.toNat f.tag with
  | .matching i e => s.takeDefer i e (deferHint f.payload)
  | .stale => s.takeStale
  | .late => s.takeLate f.node.toNat

/-! ## Timers -/

/-- Whether the answer window of a slot's exchange expires now (R57, R108). -/
def State.windowExpires (s : State) (i : Slot) : Option Exchange :=
  (s.slot i).filter fun e => e.state == .issued && reached? s.now e.answerDue

/-- Whether the reissue-due of a slot's exchange is reached now (R57, R107). -/
def State.reissueReached (s : State) (i : Slot) : Option Exchange :=
  (s.slot i).filter fun e => e.state == .deferred && reached? s.now e.reissueDue

/-- Whether the lifetime end of a slot's exchange is reached now, its timer armed (R57, R110). -/
def State.lifetimeReached (s : State) (i : Slot) : Option Exchange :=
  (s.slot i).filter fun e => e.lifetimeArmed && reached s.now e.lifetimeEnd

/-- Whether a QUIET node's quiet-until is reached now (R64). -/
def State.quietReached (s : State) (n : Nat) : Bool :=
  (nodeIndex n).isSome && reached? s.now (quietUntil (s.node n).state)

/-- ANSWER_WINDOW_EXPIRY (R108). -/
def execAnswerWindowExpiry (i : Slot) (s : State) : Host.Outcome State Fault Refusal :=
  match s.windowExpires i with
  | some e => s.inTurn true (s.takeSilence i e)
  | none => .next s

/-- REISSUE_DUE (R107): READY, with the node HELD as before. -/
def execReissueDue (i : Slot) (s : State) : Host.Outcome State Fault Refusal :=
  match s.reissueReached i with
  | some e => s.inTurn true (s.becomeReady i e)
  | none => .next s

/-- An exchange at its lifetime end (R110): EXPIRED with the node effect of the state. An ISSUED broadcast is in transmission:
no effect, and its timer is not armed again (R96). -/
def State.expire (s : State) (i : Slot) (e : Exchange) : State :=
  if e.state = .issued ∧ e.node = Config.broadcastNode then s.setSlot i (some { e with lifetimeArmed := false })
  else s.endExchange i e .expired

/-- LIFETIME_END (R110). -/
def execLifetimeEnd (i : Slot) (s : State) : Host.Outcome State Fault Refusal :=
  match s.lifetimeReached i with
  | some e => s.inTurn true (s.expire i e)
  | none => .next s

/-- QUIET_UNTIL_REACHED (R64, R97): the node becomes IDLE. -/
def execQuietUntilReached (node : Nat) (s : State) : Host.Outcome State Fault Refusal :=
  s.inTurn (s.quietReached node) (s.setNodeState node .idle)

end Sys2Proof.Machine
end

