-- ==== Sys2Proof/Machine/Schedule.lean ====
section
/-! DEFINITION. The Cycle Schedule (chapter 11): eligibility, firing, and the work at a cycle start. -/

namespace Sys2Proof.Machine

/-- The 32 schedule entries in index order. -/
def allScheduled : List EntryIndex := List.finRange 32

/-- A schedule entry. -/
def State.entry (s : State) (k : EntryIndex) : ScheduleEntry := s.schedule[k]

/-- Changing a schedule entry. -/
def State.updateEntry (s : State) (k : EntryIndex) (f : ScheduleEntry → ScheduleEntry) : State :=
  { s with schedule := s.schedule.set k (f s.schedule[k]) }

/-- Eligibility in a cycle: the cycle count modulo the divisor equals the offset (R162). -/
def eligibleIn (e : ScheduleFields) (cycle : CycleCount) : Bool :=
  cycle.toNat % e.divisor == e.offset

/-- The live fields of an entry that fires when its phase is reached: ARMED, eligible in the current cycle, mark clear,
and of the phase given (R168). -/
def State.firesAt (s : State) (k : EntryIndex) (phase : Nat) : Option ScheduleFields :=
  let e := s.entry k
  match e.state, e.live with
  | .armed, some live =>
    if !e.fired && eligibleIn live s.cycle && live.phase == phase then some live else none
  | _, _ => none

/-- The mark set and the last fire segment time, at every firing (R168). -/
def markFired (t : SegmentTime) (e : ScheduleEntry) : ScheduleEntry :=
  { e with fired := true, lastFire := some t }

/-- An entry that has admitted an exchange: the open-exchange reference and the fire count; a ONE-SHOT entry becomes
IDLE, its staged copy becoming its live fields (R161, R168). -/
def admittedEntry (live : ScheduleFields) (slot : Slot) (e : ScheduleEntry) : ScheduleEntry :=
  match live.mode with
  | .periodic => { e with openSlot := some slot, fires := e.fires + 1 }
  | .oneShot =>
    { e with
      openSlot := some slot, fires := e.fires + 1, state := .idle,
      live := e.staged.orElse fun _ => e.live, staged := none }

/-- A firing of an entry with its live fields (R168): skipped for overlap, for no policy or for no slot, or admitting an
exchange (R82). -/
def State.fire (s : State) (k : EntryIndex) (live : ScheduleFields) : State :=
  let t := s.segmentTime
  match (s.entry k).openSlot, lookupPolicy s.policies live.node live.function, s.lowestFree with
  | some _, _, _ =>
    (s.updateEntry k fun e => markFired t { e with overlapSkips := e.overlapSkips + 1 }).tally .scheduleSkips
  | none, none, _ =>
    (s.updateEntry k fun e => markFired t { e with noPolicySkips := e.noPolicySkips + 1 }).tally .scheduleSkips
  | none, some _, none =>
    (s.updateEntry k fun e => markFired t { e with noSlotSkips := e.noSlotSkips + 1 }).tally .scheduleSkips
  | none, some p, some i =>
    (s.updateEntry k fun e => markFired t (admittedEntry live i e)).openExchange i (.schedule k) live.node
      live.function live.template p

/-- Firing an entry if it fires at the phase given. -/
def State.fireAt (s : State) (phase : Nat) (k : EntryIndex) : State :=
  match s.firesAt k phase with
  | some live => s.fire k live
  | none => s

/-- The lowest-index entry that fires at the segment clock's phase (R168). -/
def State.firstFiring (s : State) : Option EntryIndex :=
  allScheduled.find? fun k => (s.firesAt k s.phase).isSome

/-! ## The release of a slot -/

/-- The open-exchange reference of the entry that fired an exchange, cleared when it names the slot released (R61, R169). -/
def State.clearReference (s : State) (i : Slot) : Origin → State
  | .schedule k =>
    s.updateEntry k fun e => if e.openSlot = some i then { e with openSlot := none } else e
  | .head _ => s

/-- The release of a slot (R61): FREE, and the schedule reference cleared. -/
def State.releaseSlot (s : State) (i : Slot) : State :=
  match s.slot i with
  | some e => (s.setSlot i none).clearReference i e.origin
  | none => s

/-! ## The work at a cycle start (R167) -/

/-- Step 1: whether the entry is cut, judged by its live fields in the ending cycle. -/
def isCut (ending : CycleCount) (e : ScheduleEntry) : Bool :=
  match e.state, e.live with
  | .armed, some live => !e.fired && eligibleIn live ending
  | _, _ => false

/-- Step 1: the cut count. -/
def cutEntry (ending : CycleCount) (e : ScheduleEntry) : ScheduleEntry :=
  if isCut ending e then { e with cuts := e.cuts + 1 } else e

/-- Step 2: an ARMED entry's staged copy becomes its live fields. -/
def promoteEntry (e : ScheduleEntry) : ScheduleEntry :=
  match e.state, e.staged with
  | .armed, some copy => { e with live := some copy, staged := none }
  | _, _ => e

/-- Step 3: whether a promoted entry's phase no longer fits the new cycle. -/
def unfit (length : Nat) (e : ScheduleEntry) : Bool :=
  match e.state, e.live with
  | .armed, some live => decide (length ≤ live.phase)
  | _, _ => false

/-- Step 3: disarming for length. -/
def disarmUnfit (length : Nat) (e : ScheduleEntry) : ScheduleEntry :=
  if unfit length e then { e with state := .idle } else e

/-- Steps 1, 2, 3 and 6 on one entry. -/
def cycleEntry (ending : CycleCount) (length : Nat) (e : ScheduleEntry) : ScheduleEntry :=
  { disarmUnfit length (promoteEntry (cutEntry ending e)) with fired := false }

/-- Step 4: a SCHEDULE-origin exchange admitted in the ending cycle that is still WAITING. -/
def State.slipped (s : State) (ending : CycleCount) : Bool :=
  allSlots.any fun i =>
    match s.slot i with
    | some e =>
      (match e.origin with
        | .schedule _ => e.state == .waiting && e.admissionCycle == ending
        | .head _ => false)
    | none => false

/-- Step 5: whether step 1 cut or step 3 disarmed any entry. -/
def State.scheduleCut (s : State) (ending : CycleCount) (length : Nat) : Bool :=
  s.schedule.toList.any fun e => isCut ending e || unfit length (promoteEntry (cutEntry ending e))

/-- The schedule's work at a cycle start, the clock standing at the new cycle. `lost` is the Timebase's cause to raise
SYNC LOST at the same event; the raises take their numbers in flag-number order (R150, R167). -/
def State.scheduleWork (s : State) (ending : CycleCount) (lost : Bool) : State :=
  let slip := s.slipped ending
  let cut := s.scheduleCut ending s.params.cycleLength
  let s1 := { s with schedule := s.schedule.map (cycleEntry ending s.params.cycleLength) }
  let s2 := ((s1.raiseFlagIf slip .cycleSlip).raiseFlagIf cut .scheduleCut).raiseFlagIf lost .syncLost
  allScheduled.foldl (fun st k => st.fireAt 0 k) s2

/-- SCHEDULE_FIRING (R168): the entry of the lowest index among those that fire at the segment clock's phase. -/
def execScheduleFiring (k : EntryIndex) (s : State) : Host.Outcome State Fault Refusal :=
  s.inTurn (s.firstFiring == some k) (s.fireAt s.phase k)

end Sys2Proof.Machine
end

