-- ==== Sys2Proof/Machine/Timebase.lean ====
section
/-! DEFINITION. The segment clock, the SYNC qualifier and SYNCED mode (chapter 10): cycle starts, SYNC edges and qualified
level changes. The tick itself is in Machine/Tick.lean. -/

namespace Sys2Proof.Machine

/-- Whether a tick's advance of the phase would reach the cycle length in force (R149). -/
def State.atCycleEnd (s : State) : Bool :=
  decide (s.params.cycleLength ≤ s.phase + 1)

/-- The miss run at a flywheel start: it rises by 1 and stays at 255 (R156). -/
def nextMissRun (n : Nat) : Nat := min 255 (n + 1)

/-- Whether a flywheel start raises SYNC LOST (R156). -/
def State.losesSync (s : State) (kind : StartKind) : Bool :=
  kind == .flywheel && !s.lossRaised && decide (s.params.syncMissLimit ≤ nextMissRun s.missRun)

/-- Steps 1 to 6 of a cycle start: the clock's own changes (R150, R156). -/
def State.newCycle (s : State) (kind : StartKind) : State :=
  { s with
    phase := 0
    cycle := s.cycle + 1
    params := { s.params with cycleLength := s.stagedLength.getD s.params.cycleLength }
    stagedLength := none
    startKind := kind
    capture := s.capture.map fun c => { c with currentCycle := false }
    missRun := if kind = .flywheel then nextMissRun s.missRun else s.missRun
    lossRaised := s.lossRaised || s.losesSync kind }

/-- A cycle start of any kind, with the schedule's work (R150, R167). -/
def State.startCycle (s : State) (kind : StartKind) : State :=
  (s.newCycle kind).scheduleWork s.cycle (s.losesSync kind)

/-- The kind of the cycle start that ends a cycle at its length (R149). -/
def endKind : ClockMode → StartKind
  | .free => .wrap
  | .synced => .flywheel

/-- The cycle start that the present tick is (R149, R150). -/
def State.endCycle (s : State) : State :=
  State.startCycle { s with advanceHeld := false } (endKind s.params.clockMode)

/-- The held advance of the present tick (R149): a cycle start where it would reach the cycle length; otherwise, the advance having
been held for a SYNC edge, the phase rises by 1 (R159, log 5). -/
def State.takeAdvance (s : State) : State :=
  if s.atCycleEnd then s.endCycle else { s with phase := s.phase + 1, advanceHeld := false }

/-- CYCLE_START (R149, R150, R159): the advance that the present tick holds is made. -/
def execCycleStart (s : State) : Host.Outcome State Fault Refusal :=
  s.inTurn s.advanceHeld s.takeAdvance

/-! ## SYNC -/

/-- A qualified level change of the present tick is still to be taken (R151). -/
def State.levelDue (s : State) : Bool :=
  s.levelChange.isSome

/-- Whether a change away from a level is in the polarity's direction (R151). -/
def activeChange (p : Polarity) (level : Bool) : Bool :=
  match p with
  | .rising => !level
  | .falling => level

/-- A change away from a level (R151). -/
def changeFrom (p : Polarity) (level : Bool) : LevelChange :=
  if activeChange p level then .edge else .against

/-- A SYNC edge is due (R151). -/
def State.edgeDue (s : State) : Bool :=
  s.levelChange == some .edge

/-- The qualified level takes the new value and the run count becomes 0 (R151). -/
def State.takeLevel (s : State) : State :=
  { s with qualifiedLevel := !s.qualifiedLevel, syncRun := 0, levelChange := none }

/-- Classification of an edge, the tests in order (R152, R154). -/
def State.classify (s : State) : EdgeClass :=
  match s.params.clockMode with
  | .free => .freeMode
  | .synced =>
    if s.params.cycleLength - s.params.syncTolerance ≤ s.phase then .onTime
    else if s.startKind = .flywheel ∧ (s.capture.map Capture.currentCycle).getD false = false ∧
        s.phase ≤ s.params.syncTolerance then .late
    else .early

/-- The sync capture record an edge fills (R152). DESIGN CHOICE, unsafe (log 27): an edge taken before its tick's advance of the
phase (R159) is captured with the monotonic count that this tick has already raised, beside the phase not yet advanced. -/
def State.captureEdge (s : State) : State :=
  { s with
    capture := some
      { cycle := s.cycle, phase := s.phase, time := s.now, classification := s.classify, currentCycle := true } }

/-- An edge in SYNCED mode ends the run of misses (R156). -/
def State.endMisses (s : State) : State :=
  { s with missRun := 0, lossRaised := false }

/-- The effect of an edge on the segment clock by its classification (R154, R155). -/
def State.edgeEffect (s : State) (c : EdgeClass) : State :=
  match c with
  | .freeMode => s
  | .onTime => s.endMisses.startCycle .sync
  | .early => s.endMisses.startCycle .sync
  | .late => { s.endMisses with phase := 0 }

/-- The taking of a SYNC edge (R151, R152, R154, R155): capture, then the effect. An advance of the tick that is held stays held, as
an event of its own after the edge (R159, log 5). -/
def State.takeEdge (s : State) : State :=
  s.takeLevel.captureEdge.edgeEffect s.classify

/-- SYNC_EDGE (R151, R154): where the tick was taken first, the entries whose phase it reached fire before the edge (R168,
R170). -/
def execSyncEdge (s : State) : Host.Outcome State Fault Refusal :=
  s.inTurn (s.edgeDue && s.firstFiring.isNone) s.takeEdge

/-- QUALIFIED_LEVEL_CHANGE (R151): a change against the active direction is qualified and kept, and is no edge. -/
def execQualifiedLevelChange (s : State) : Host.Outcome State Fault Refusal :=
  s.inTurn (s.levelChange == some .against) s.takeLevel

end Sys2Proof.Machine
end

