-- ==== Sys2Proof/Machine/Arbiter.lean ====
section
/-! DEFINITION. The field transmit arbiter (chapter 6): eligibility, the choice, selection, and the field port's transmit
starts and completions. -/

namespace Sys2Proof.Machine

/-! ## The field port's transmissions -/

/-- The transmission of a frame started now: its bytes, and 4 × (B + 2) ticks (R8). -/
def transmissionOf (now : Mono) (f : Frame) : Transmission :=
  { bytes := frameBytes f, completes := after now (Config.frameTicks (frameBytes f).length) }

/-- A transmission may start only while the line is UP and the port is idle (R8). DESIGN CHOICE (log 26): where a completion and
the line's change to DOWN fall together, a next transmission may start between the two, and the change then cuts it. -/
def Port.canStart (p : Port) : Bool :=
  p.up && p.tx.isNone

/-- A transmission in progress has reached its completion (R8). -/
def Port.completing (p : Port) (now : Mono) : Bool :=
  match p.tx with
  | some t => reached now t.completes
  | none => false

/-- The port becomes transmitting. -/
def Port.start (p : Port) (now : Mono) (f : Frame) : Port :=
  { p with tx := some (transmissionOf now f) }

/-- The port becomes idle, at a completion or at a cut (R8). -/
def Port.idle (p : Port) : Port :=
  { p with tx := none }

/-- A field transmit start: the port, and the frame in flight (R84). -/
def State.startField (s : State) (f : Frame) (inFlight : InFlight) : State :=
  { s with fieldPort := s.fieldPort.start s.now f, inFlight := some inFlight }

/-- The field port becomes idle and the frame in flight leaves (R84, R98). -/
def State.endField (s : State) : State :=
  { s with fieldPort := s.fieldPort.idle, inFlight := none }

/-! ## Eligibility -/

/-- Whether a node is OCCUPIED or QUIET (R87). -/
def NodeState.busy : NodeState → Bool
  | .occupied _ => true
  | .quiet _ => true
  | .idle => false
  | .held _ => false

/-- Whether no node is OCCUPIED or QUIET (R87, R88). -/
def State.noNodeBusy (s : State) : Bool :=
  s.nodes.toList.all fun e => !e.state.busy

/-- A broadcast that is WAITING is a barrier (R88). -/
def Exchange.isBarrier (e : Exchange) : Bool :=
  e.state == .waiting && e.node == Config.broadcastNode

/-- Whether a WAITING broadcast was admitted before an exchange (R87, R88). -/
def State.barrierAhead (s : State) (e : Exchange) : Bool :=
  allSlots.any fun j =>
    match s.slot j with
    | some b => b.isBarrier && olderSeq b.admissionSeq e.admissionSeq
    | none => false

/-- Eligibility at a choice (R87). -/
def State.eligible (s : State) (e : Exchange) : Bool :=
  match e.state with
  | .waiting =>
    (if e.node = Config.broadcastNode then s.noNodeBusy else (s.node e.node).state == .idle) && !s.barrierAhead e
  | .ready => true
  | .issued => false
  | .deferred => false
  | .concluded => false

/-- Whether an origin is SCHEDULE. -/
def Origin.isSchedule : Origin → Bool
  | .schedule _ => true
  | .head _ => false

/-- The oldest eligible exchange of an origin, read from the pending order (R59, R90). -/
def State.oldestEligible (s : State) (schedule : Bool) : Option Slot :=
  s.pendingOrder.find? fun i =>
    match s.slot i with
    | some e => e.origin.isSchedule == schedule && s.eligible e
    | none => false

/-- The choice among exchanges (R89). -/
def State.selected (s : State) : Option Slot :=
  match s.oldestEligible true, s.oldestEligible false with
  | some a, some b => if s.scheduleRun < s.params.acyclicShare then some a else some b
  | some a, none => some a
  | none, some b => some b
  | none, none => none

/-- The consecutive-schedule count after a selection of an origin (R89). -/
def State.runAfter (s : State) (o : Origin) : Nat :=
  match o with
  | .head _ => 0
  | .schedule _ => if (s.oldestEligible false).isSome then s.scheduleRun + 1 else s.scheduleRun

/-- What goes next on the field line (R86, R89). -/
inductive FieldChoice where
  | receipt (r : Receipt)
  | exchange (i : Slot)
  deriving DecidableEq, Repr

/-- The arbiter's choice: the line UP, the port idle and a candidate (R85); the oldest receipt first (R86). -/
def State.fieldChoice (s : State) : Option FieldChoice :=
  if s.fieldPort.canStart then
    match s.receipts with
    | r :: _ => some (.receipt r)
    | [] => s.selected.map .exchange
  else none

/-! ## One choice for the events that fall together

R85: enabling events that fall together give one choice, made once all of them have been taken. `yetToCome` says whether an
event of the present tick that is still to be taken can make an exchange eligible; until then nothing starts (log 23). -/

/-- The slot of a choice. -/
def FieldChoice.slot : FieldChoice → Option Slot
  | .receipt _ => none
  | .exchange i => some i

/-- The head frame that a command brings. -/
def headFrame : Instr → Option Frame
  | .requestArrival n t f p => some { kind := .request, node := n, tag := t, function := f, payload := p }
  | .directiveArrival n c a => some { kind := .directive, node := 0, tag := n, function := c, payload := a }
  | _ => none

/-- The head frames that may still be taken at this tick: those whose arrival waits before the next tick and, where a head
transmit completion is due, those that the intake holds (R21). -/
def State.coming (s : State) : List Frame :=
  (if s.headPort.completing s.now then s.intake else []) ++ s.thisTick.filterMap headFrame

/-- A frame is a cancel directive that reaches an exchange, by its head tag or by its field node (R117, R119). -/
def cancelReaches (e : Exchange) (f : Frame) : Bool :=
  f.kind == .directive &&
    match f.payload with
    | [b] =>
      (f.function == 0x12 && e.origin == .head b) ||
        (f.function == 0x13 && b.toNat == e.node && e.node != Config.broadcastNode)
    | _ => false

/-- The lifetime end of a slot's exchange is due, or a cancel directive that reaches it may still be taken at this tick. -/
def State.mayEnd (s : State) (i : Slot) : Bool :=
  (s.lifetimeReached i).isSome || (s.slot i).any fun e => s.coming.any (cancelReaches e)

/-- The exchange of a slot other than the one spared may end at this tick. -/
def State.endsNow (s : State) (spared : Option Slot) (i : Slot) : Bool :=
  spared != some i && s.mayEnd i

/-- A slot's exchange can make a node IDLE at this tick: by a last silence, by a silence and its end, or by its end while DEFERRED
or READY (R108, R110, R113, R118, R121). -/
def State.freesNow (s : State) (spared : Option Slot) (n : Nat) (i : Slot) : Bool :=
  match s.slot i with
  | some e =>
    e.node == n &&
      ((s.windowExpires i).isSome &&
          (decide (e.snapshot.silentLimit < e.silentCount + 1) || s.mayEnd i) ||
        s.endsNow spared i && (e.state == .deferred || e.state == .ready))
  | none => false

/-- A node is IDLE, or can become so at this tick (R64, R85). -/
def State.idleNow (s : State) (spared : Option Slot) (n : Nat) : Bool :=
  (s.node n).state == .idle || s.quietReached n || allSlots.any (s.freesNow spared n)

/-- A node is not OCCUPIED or QUIET, or can leave that state at this tick (R85). -/
def State.leftNow (s : State) (spared : Option Slot) (n : Nat) : Bool :=
  !(s.node n).state.busy || s.idleNow spared n ||
    allSlots.any fun i => (s.windowExpires i).any fun e => e.node == n

/-- A WAITING broadcast older than an admission sequence does not end at this tick (R85, R88). -/
def State.barrierNow (s : State) (spared : Option Slot) (seq : AdmissionSeq) : Bool :=
  allSlots.any fun j =>
    match s.slot j with
    | some b => b.isBarrier && olderSeq b.admissionSeq seq && !s.endsNow spared j
    | none => false

/-- A WAITING exchange to a node, of an admission sequence, is eligible or can become so at this tick (R85, R87). -/
def State.opensNow (s : State) (spared : Option Slot) (node : Nat) (seq : AdmissionSeq) : Bool :=
  (if node = Config.broadcastNode then allNodes.all (s.leftNow spared) else s.idleNow spared node) &&
    !s.barrierNow spared seq

/-- A slot's exchange is eligible, or can become so at this tick by timers and cancels, be it together, all but those of the slot
spared (R85, R87). -/
def State.eligibleNow (s : State) (spared : Option Slot) (i : Slot) : Bool :=
  match s.slot i with
  | none => false
  | some e =>
    match e.state with
    | .waiting => s.opensNow spared e.node e.admissionSeq
    | .ready => true
    | .deferred => (s.reissueReached i).isSome
    | .issued => false
    | .concluded => false

/-- Whether a slot holds an eligible exchange (R87). -/
def State.eligibleSlot (s : State) (i : Slot) : Bool :=
  match s.slot i with
  | some e => s.eligible e
  | none => false

/-- A node's frame whose arrival waits before the next tick can make an exchange eligible, or its receipt joins the Receipt Queue
(R85, R136). -/
def State.fieldFrameComes (s : State) : Bool :=
  s.thisTick.any fun c => isReply c || (isReport c && decide (s.receipts.length < Config.receiptCapacity))

/-- A REQUEST that may still be taken at this tick can be eligible at its admission (R85). -/
def State.requestComes (s : State) (spared : Option Slot) : Bool :=
  s.coming.any fun f => f.kind == .request && s.opensNow spared f.node.toNat s.admissionCounter

/-- A directive that changes what fires at a cycle start or a SYNC edge: Set Parameters, Load Policy, Load Schedule Entry and Arm
Entry (R30, R47, R163, R164). -/
def changesFirings (f : Frame) : Bool :=
  f.kind == .directive && [0x02, 0x08, 0x20, 0x21].contains f.function

/-- The state once the advance of this tick, if it is held, is made: a cycle start, or the phase risen (R149, R159). -/
def State.afterAdvance (s : State) : State :=
  if s.advanceHeld then s.takeAdvance else s

/-- The state once the SYNC edge of this tick, if one is due, is taken. -/
def State.afterEdge (s : State) : State :=
  if s.edgeDue then s.takeEdge else s

/-- A state, and those that the firings due in it leave (R168). -/
def State.withFirings (s : State) : List State :=
  s :: allScheduled.filterMap fun k => (s.firesAt k s.phase).map (s.fire k)

/-- The states that the held advance and the SYNC edge of this tick leave, in either order, with the firings due after them (R159,
R168). -/
def State.clockStates (s : State) : List State :=
  [s.afterAdvance, s.afterEdge, s.afterAdvance.afterEdge, s.afterEdge.afterAdvance].flatMap State.withFirings

/-- The state once the slot of a due OUTCOME transmit completion is FREE (R61, R176). -/
def State.afterRelease (s : State) : State :=
  match s.delivery with
  | .conclusion i :: _ => if s.headPort.completing s.now then s.releaseSlot i else s
  | _ => s

/-- The states that the clock events of this tick leave, before and after a due release (R81, R170). -/
def State.clockOutcomes (s : State) : List State :=
  if s.advanceHeld || s.edgeDue then s.clockStates ++ s.afterRelease.clockStates else []

/-- An event of the present tick that is still to be taken can make an exchange eligible, other than the end of the exchange
spared (R85). The taking of a REQUEST and a firing count as such whatever they admit: where it is not eligible, they give the same
state before a start and after it. -/
def State.yetToCome (s : State) (spared : Option Slot) : Bool :=
  s.takeReady || s.firstFiring.isSome || s.fieldFrameComes || s.requestComes spared ||
    ((s.advanceHeld || s.edgeDue) && s.coming.any changesFirings) ||
    (s :: s.clockOutcomes).any fun t => allSlots.any fun i => t.eligibleNow spared i && !s.eligibleSlot i

/-- What starts on the field line (R85): the arbiter's choice, made when no event of the present tick that can make an exchange
eligible is still to be taken, and no control place is being handed. The chosen exchange's own end may come after its selection
(R92, R96, R114, log 23). -/
def State.fieldStart (s : State) : Option FieldChoice :=
  s.fieldChoice.filter fun c => !s.handing && !s.yetToCome c.slot

/-! ## Selections and transmit starts -/

/-- The part of a selection common to nodes and broadcasts: ISSUED, out of the pending order, issue count and
consecutive-schedule count (R91, R96). -/
def State.selectExchange (s : State) (i : Slot) (e : Exchange) : State :=
  { s with
    slots := s.slots.set i
      (some { e with state := .issued, answerDue := none, issueCount := e.issueCount + 1 })
    pendingOrder := s.pendingOrder.filter (· != i)
    scheduleRun := s.runAfter e.origin }

/-- Selection of an exchange to a node 1 to 62, with its ISSUE's transmit start (R91). -/
def State.selectToNode (s : State) (i : Slot) (e : Exchange) : State :=
  let number := (s.node e.node).issueNumber + 1
  (((s.selectExchange i e).updateNode e.node fun n =>
      { n with issueNumber := number, state := .occupied i }).startField
    (issueFrame e number) (.issue i e.node number e.snapshot.answerWindow)).tally .issuesSent

/-- Selection of a broadcast, with its ISSUE's transmit start: Tag 00h, and no node entry changes (R96). -/
def State.selectBroadcast (s : State) (i : Slot) (e : Exchange) : State :=
  ((s.selectExchange i e).startField
    (issueFrame e 0) (.issue i Config.broadcastNode 0 e.snapshot.answerWindow)).tally .issuesSent

/-- ISSUE_SELECTION (R91): the arbiter's choice is an exchange to a node 1 to 62. -/
def execIssueSelection (s : State) : Host.Outcome State Fault Refusal :=
  match s.fieldStart with
  | some (.exchange i) =>
    match s.slot i with
    | some e => s.whenever (e.node != Config.broadcastNode) (s.selectToNode i e)
    | none => .next s
  | _ => .next s

/-- BROADCAST_SELECTION (R96): the arbiter's choice is a broadcast. -/
def execBroadcastSelection (s : State) : Host.Outcome State Fault Refusal :=
  match s.fieldStart with
  | some (.exchange i) =>
    match s.slot i with
    | some e => s.whenever (e.node == Config.broadcastNode) (s.selectBroadcast i e)
    | none => .next s
  | _ => .next s

/-- RECEIPT_TRANSMIT_START (R86): the oldest receipt leaves the queue and its transmission starts. -/
def execReceiptTransmitStart (s : State) : Host.Outcome State Fault Refusal :=
  match s.fieldStart with
  | some (.receipt r) =>
    .next ((State.startField { s with receipts := s.receipts.tail } (receiptFrame r) (.receipt r)).tally .receiptsSent)
  | _ => .next s

/-! ## Transmit completions -/

/-- The record at an ISSUE's transmit completion: last completion, and the first-issue time on the first (R94, R96). -/
def completedRecord (s : State) (e : Exchange) : Exchange :=
  { e with
    lastCompletion := some s.now
    firstIssue := match e.firstIssue with
      | some t => some t
      | none => some s.segmentTime }

/-- The effect of an ISSUE's transmit completion on its node and exchange (R94, R95). -/
def State.completeIssue (s : State) (node window : Nat) : State :=
  match (s.node node).state with
  | .occupied i =>
    match s.slot i with
    | some e =>
      s.setSlot i (some { completedRecord s e with answerDue := some (after s.now e.snapshot.answerWindow) })
    | none => s
  | .quiet none => s.setNodeState node (.quiet (some (after s.now window)))
  | .quiet (some _) => s
  | .idle => s
  | .held _ => s

/-- ISSUE_TRANSMIT_COMPLETION (R94, R95). -/
def execIssueTransmitCompletion (s : State) : Host.Outcome State Fault Refusal :=
  match s.inFlight with
  | some (.issue _ node _ window) =>
    s.inTurn (s.fieldPort.completing s.now && node != Config.broadcastNode) (s.completeIssue node window).endField
  | _ => .next s

/-- BROADCAST_TRANSMIT_COMPLETION (R96): the broadcast concludes SENT. -/
def execBroadcastTransmitCompletion (s : State) : Host.Outcome State Fault Refusal :=
  match s.inFlight with
  | some (.issue i node _ _) =>
    match s.slot i with
    | some e =>
      s.inTurn
        (s.fieldPort.completing s.now && node == Config.broadcastNode && e.state == .issued &&
          e.node == Config.broadcastNode)
        (s.conclude i (completedRecord s e) .sent).endField
    | none => .next s
  | _ => .next s

/-- RECEIPT_TRANSMIT_COMPLETION (R86): the frame in flight leaves and the port is idle. -/
def execReceiptTransmitCompletion (s : State) : Host.Outcome State Fault Refusal :=
  match s.inFlight with
  | some (.receipt _) => s.inTurn (s.fieldPort.completing s.now) s.endField
  | _ => .next s

end Sys2Proof.Machine
end

