-- ==== Sys2Proof/Machine/Delivery.lean ====
section
/-! DEFINITION. Delivery to the controller (chapter 12): head transmissions, their completions and releases (R61, R143,
R176), and the notices the control-place arbiter places (R34, R142, R174). -/

namespace Sys2Proof.Machine

/-- The frame built from an item at transmit start (R175); none for an item that references a FREE slot or entry, which
R172 and R131 exclude. -/
def State.itemFrame (s : State) : Item → Option Frame
  | .conclusion i => (s.slot i).map (outcomeFrame i)
  | .report k => (s.stored k).map (reportDeliveryFrame k)
  | .control f => some f

/-- The frame of the first item, when a head transmission can start: the line UP, the port idle, the list not empty
(R175). -/
def State.headStart (s : State) : Option Frame :=
  if s.headPort.canStart then s.delivery.head?.bind s.itemFrame else none

/-- HEAD_TRANSMIT_START (R175): the item stays first in the list. -/
def execHeadTransmitStart (s : State) : Host.Outcome State Fault Refusal :=
  match s.headStart with
  | some f => s.inTurn true { s with headPort := s.headPort.start s.now f }
  | none => .next s

/-- A head transmit completion: the first item leaves the list and the port becomes idle (R176). -/
def State.completeHead (s : State) : State :=
  { s with delivery := s.delivery.tail, headPort := s.headPort.idle }

/-- OUTCOME_TRANSMIT_COMPLETION (R61, R176). -/
def execOutcomeTransmitCompletion (s : State) : Host.Outcome State Fault Refusal :=
  match s.delivery with
  | .conclusion i :: _ => s.inTurn (s.headPort.completing s.now) (s.completeHead.releaseSlot i)
  | _ => .next s

/-- REPORT_DELIVERY_COMPLETION (R143, R176): the store entry becomes FREE. -/
def execReportDeliveryCompletion (s : State) : Host.Outcome State Fault Refusal :=
  match s.delivery with
  | .report k :: _ =>
    s.inTurn (s.headPort.completing s.now) { s.completeHead with store := s.store.set k none }
  | _ => .next s

/-- CONTROL_TRANSMIT_COMPLETION (R176): the control place is free. -/
def execControlTransmitCompletion (s : State) : Host.Outcome State Fault Refusal :=
  match s.delivery with
  | .control _ :: _ => s.inTurn (s.headPort.completing s.now) s.completeHead
  | _ => .next s

/-! ## Notices -/

/-- A free control place goes to the FLAGS RAISED notice: it is owed, and the intake's first frame claims none (R174). -/
def State.flagsNoticeReady (s : State) : Bool :=
  s.flagsOwed && s.controlFree && !s.intakeClaims

/-- FLAGS_RAISED_NOTICE_PLACED (R34). -/
def execFlagsRaisedNoticePlaced (s : State) : Host.Outcome State Fault Refusal :=
  s.whenever s.flagsNoticeReady (State.place { s with flagsOwed := false } (flagsRaisedFrame s.flags))

/-- The node whose GRANT WANTED notice a free control place goes to: the front of the owed-notice order, no claim above it
standing (R142, R174). -/
def State.grantNoticeNode (s : State) : Option Nat :=
  if s.controlFree && !s.intakeClaims && !s.flagsOwed then s.owedOrder.head? else none

/-- GRANT_WANTED_NOTICE_PLACED (R142). -/
def execGrantWantedNoticePlaced (s : State) : Host.Outcome State Fault Refusal :=
  match s.grantNoticeNode with
  | some n =>
    .next
      ((State.updateNode { s with owedOrder := s.owedOrder.tail } n fun e => { e with notice := .sent }).place
        (grantWantedFrame n (s.node n).parkOrder.length))
  | none => .next s

end Sys2Proof.Machine
end

