-- ==== Sys2Proof/Machine/Reports.lean ====
section
/-! DEFINITION. The Report Store (chapter 9): the arrival of a REPORT, the grant directives' effects, and the placing of a
GRANT WANTED notice. -/

namespace Sys2Proof.Machine

/-- The report as it is taken into an entry (R130). -/
def storedReport (s : State) (f : Frame) (released : Bool) : StoredReport :=
  { released := released, node := f.node.toNat, sequence := f.tag, function := f.function,
    arrival := s.segmentTime, payload := f.payload }

/-- The receipt a report's arrival makes owed (R136). -/
def receiptFor (f : Frame) (kind : ReceiptKind) : Receipt :=
  { node := f.node.toNat, sequence := f.tag, kind := kind }

/-- A report taken into an entry on credit: RELEASED (R134). -/
def State.releaseOnArrival (s : State) (k : StoreIndex) (f : Frame) : State :=
  ((State.updateNode
      { s with
        store := s.store.set k (some (storedReport s f true))
        delivery := s.delivery ++ [.report k] }
      f.node.toNat
      fun n => { n with lastSequence := some f.tag, credit := n.credit - 1 }).tally .reportsAccepted).oweReceipt
    (receiptFor f .accepted)

/-- A report taken into an entry without credit: PARKED (R134). The notice state NONE becomes OWED. -/
def State.parkOnArrival (s : State) (k : StoreIndex) (f : Frame) : State :=
  ((State.updateNode
      { s with
        store := s.store.set k (some (storedReport s f false))
        owedOrder := if (s.node f.node.toNat).notice = .none then oweNotice s.owedOrder f.node.toNat
          else s.owedOrder }
      f.node.toNat
      fun n =>
        { n with
          lastSequence := some f.tag, parkOrder := n.parkOrder ++ [k],
          notice := if n.notice = .none then .owed else n.notice }).tally .reportsHeld).oweReceipt
    (receiptFor f .held)

/-- A REPORT handed on by the field port: a repeat (R133), taken into the store (R134), or refused (R135). -/
def State.reportArrives (s : State) (f : Frame) : State :=
  if (s.node f.node.toNat).lastSequence = some f.tag then
    (s.tally .reportsRepeated).oweReceipt (receiptFor f .repeated)
  else
    match s.lowestFreeEntry with
    | some k =>
      if 0 < (s.node f.node.toNat).credit then s.releaseOnArrival k f else s.parkOnArrival k f
    | none => ((s.tally .reportsRefused).raiseFlag .storeFull).oweReceipt (receiptFor f .refused)

/-! ## Grants -/

/-- Store entries becoming RELEASED (R131). -/
def releaseEntries (store : Vector (Option StoredReport) 16) (ks : List StoreIndex) :
    Vector (Option StoredReport) 16 :=
  ks.foldl (fun st (k : StoreIndex) => st.set k (st[k].map fun r => { r with released := true })) store

/-- Store entries becoming FREE (R131). -/
def freeEntries (store : Vector (Option StoredReport) 16) (ks : List StoreIndex) :
    Vector (Option StoredReport) 16 :=
  ks.foldl (fun st (k : StoreIndex) => st.set k none) store

/-- Steps 1 to 3 of Post Grant at the taking (R138): credit, releases in park order, and the notice state. -/
def State.grant (s : State) (n k : Nat) : State :=
  let entry := s.node n
  let credit := min Config.maxCredit (entry.credit + k)
  let released := entry.parkOrder.take credit
  let left := entry.parkOrder.drop credit
  State.updateNode
    { s with
      store := releaseEntries s.store released
      delivery := s.delivery ++ released.map .report
      owedOrder := if left.isEmpty then s.owedOrder.filter (· != n) else oweNotice s.owedOrder n }
    n
    fun e =>
      { e with
        credit := credit - released.length, parkOrder := left,
        notice := if left.isEmpty then .none else .owed }

/-- Discard Parked at the taking (R140). -/
def State.discard (s : State) (n : Nat) : State :=
  State.updateNode
    { s with
      store := freeEntries s.store (s.node n).parkOrder
      owedOrder := s.owedOrder.filter (· != n) }
    n
    fun e => { e with parkOrder := [], notice := .none }

end Sys2Proof.Machine
end

