-- ==== Sys2Proof/Machine/Ports.lean ====
section
/-! DEFINITION. The two ports (chapter 1): frames arriving (R5, R6), the Head Intake's keeping or discarding of a good frame
(R20), and the changes of a line's state (R7, R122, R123, R177). -/

namespace Sys2Proof.Machine

/-- A line's port. -/
def State.port (s : State) : Line → Port
  | .head => s.headPort
  | .field => s.fieldPort

/-- Changing a line's port. -/
def State.setPort (s : State) (line : Line) (p : Port) : State :=
  match line with
  | .head => { s with headPort := p }
  | .field => { s with fieldPort := p }

/-! ## Arrivals -/

/-- The good-frame counter of a line (R6). -/
def goodCounter : Line → Counter
  | .head => .headGood
  | .field => .fieldGood

/-- The check-error counter of a line (R5). -/
def checkErrorCounter : Line → Counter
  | .head => .headCheckErrors
  | .field => .fieldCheckErrors

/-- The malformed counter of a line (R5). -/
def malformedCounter : Line → Counter
  | .head => .headMalformed
  | .field => .fieldMalformed

/-- A good head frame joins the back of the intake, or is discarded at a full intake (R20). -/
def State.offer (s : State) (f : Frame) : State :=
  if s.intake.length < Config.intakeCapacity then { s with intake := s.intake ++ [f] }
  else (s.tally .headOverrunDiscards).raiseFlag .headOverrun

/-- A good frame handed on to the block that takes its kind (R6). -/
def State.handOn (s : State) (f : Frame) : State :=
  match f.kind with
  | .request => s.offer f
  | .directive => s.offer f
  | .answer => s.answerArrives f
  | .defer => s.deferArrives f
  | .report => s.reportArrives f
  | .outcome => s
  | .refusal => s
  | .reportDelivery => s
  | .acknowledge => s
  | .notice => s
  | .issue => s
  | .receipt => s

/-- A frame can arrive: the line is UP, and a start pattern has been seen (section 1.3, R7). -/
def State.canArrive (s : State) (line : Line) : Bool :=
  (s.port line).up && (s.port line).receive == .receiving

/-- A node's ANSWER or DEFER whose last byte came before the line's change to DOWN of this tick is still to be judged and handed
on (R5, R125, log 25). -/
def State.replyDue (s : State) : Bool :=
  s.fieldPort.receive == .arrived

/-- A node's ANSWER or DEFER can be handed on: as it arrives, in its turn, or behind the change to DOWN at which it arrived. The
latter is stale and places nothing, so no handing of a control place is held against it (R100, R125, log 25). -/
def State.canReply (s : State) : Bool :=
  s.replyDue || (s.canArrive .field && !s.handing)

/-- The port's receive state returns to idle. -/
def State.endReceive (s : State) (line : Line) : State :=
  s.setPort line { s.port line with receive := .idle }

/-- The arrival of a frame's bytes at a port (R5, R6). -/
def State.arrive (s : State) (line : Line) (bytes : List Byte) : State :=
  match judgeBytes line bytes with
  | .good f => ((s.endReceive line).tally (goodCounter line)).handOn f
  | .checkError => (s.endReceive line).tally (checkErrorCounter line)
  | .malformed => (s.endReceive line).tally (malformedCounter line)

/-- The arrival of a frame as its sender builds it. -/
def State.arriveFrame (s : State) (line : Line) (f : Frame) : Host.Outcome State Fault Refusal :=
  s.inTurn (s.canArrive line) (s.arrive line (frameBytes f))

/-- The arrival of a node's ANSWER or DEFER. -/
def State.arriveReply (s : State) (f : Frame) : Host.Outcome State Fault Refusal :=
  s.whenever s.canReply (s.arrive .field (frameBytes f))

/-- REQUEST_ARRIVAL (R20). -/
def execRequestArrival (node tag function : Byte) (payload : List Byte) (s : State) :
    Host.Outcome State Fault Refusal :=
  s.arriveFrame .head
    { kind := .request, node := node, tag := tag, function := function, payload := payload }

/-- DIRECTIVE_ARRIVAL (R20): a DIRECTIVE carries Node 0 (R4). -/
def execDirectiveArrival (number code : Byte) (arguments : List Byte) (s : State) :
    Host.Outcome State Fault Refusal :=
  s.arriveFrame .head
    { kind := .directive, node := 0, tag := number, function := code, payload := arguments }

/-- ANSWER_ARRIVAL (R99). -/
def execAnswerArrival (node tag function : Byte) (payload : List Byte) (s : State) :
    Host.Outcome State Fault Refusal :=
  s.arriveReply
    { kind := .answer, node := node, tag := tag, function := function, payload := payload }

/-- DEFER_ARRIVAL (R105). -/
def execDeferArrival (node tag function : Byte) (payload : List Byte) (s : State) :
    Host.Outcome State Fault Refusal :=
  s.arriveReply
    { kind := .defer, node := node, tag := tag, function := function, payload := payload }

/-- REPORT_ARRIVAL (R133). -/
def execReportArrival (node sequence function : Byte) (payload : List Byte) (s : State) :
    Host.Outcome State Fault Refusal :=
  s.arriveFrame .field
    { kind := .report, node := node, tag := sequence, function := function, payload := payload }

/-- Whether bytes pass every receive check. -/
def Verdict.isGood : Verdict → Bool
  | .good _ => true
  | .checkError => false
  | .malformed => false

/-- MALFORMED_FRAME (R5): bytes that fail a check; bytes that pass every check are no malformed frame (log 6). -/
def execMalformedFrame (line : Line) (bytes : List Byte) (s : State) : Host.Outcome State Fault Refusal :=
  s.inTurn (s.canArrive line && !(judgeBytes line bytes).isGood) (s.arrive line bytes)

/-- START_PATTERN_SEEN (section 1.3, R5): while the line is UP, idle becomes receiving. -/
def execStartPatternSeen (line : Line) (s : State) : Host.Outcome State Fault Refusal :=
  s.inTurn ((s.port line).up && (s.port line).receive == .idle)
    (s.setPort line { s.port line with receive := .receiving })

/-! ## Line changes -/

/-- The run count of a DOWN line has reached 500 (R7). -/
def Port.upDue (p : Port) : Bool :=
  !p.up && decide (Config.upTicks ≤ p.run)

/-- The run count of an UP line has reached 2,000 (R7). -/
def Port.downDue (p : Port) : Bool :=
  p.up && decide (Config.downTicks ≤ p.run)

/-- The port at its change to UP (R7): no frame has begun (section 1.3). -/
def Port.raise (p : Port) : Port :=
  { p with up := true, run := 0, receive := .idle }

/-- The port at its change to DOWN: a frame being received is discarded and a transmission cut short (R7, R8). -/
def Port.lower (p : Port) : Port :=
  { p with up := false, run := 0, receive := .idle, tx := none }

/-- A frame being received at the change to DOWN is counted as malformed (R5). -/
def State.tallyCutShort (s : State) (line : Line) : State :=
  if (s.port line).receive = .receiving then s.tally (malformedCounter line) else s

/-- The field port at the change to DOWN (R5, R7): a frame being received is cut short and counted or, when its last byte is taken
first, has arrived and is still to be judged and handed on (R125, log 25). The port receives nothing more. -/
def State.endFieldReceive (s : State) (arrived : Bool) : State :=
  if arrived && s.fieldPort.receive == .receiving then
    { s with fieldPort := { s.fieldPort.lower with receive := .arrived } }
  else { s.tallyCutShort .field with fieldPort := s.fieldPort.lower }

/-- HEAD_LINE_UP (R7, R175). -/
def execHeadLineUp (s : State) : Host.Outcome State Fault Refusal :=
  s.inTurn s.headPort.upDue { s with headPort := s.headPort.raise }

/-- FIELD_LINE_UP (R7, R124). -/
def execFieldLineUp (s : State) : Host.Outcome State Fault Refusal :=
  s.inTurn s.fieldPort.upDue { s with fieldPort := s.fieldPort.raise }

/-- HEAD_LINE_DOWN (R7, R177): the item in transmission stays first in the list. -/
def execHeadLineDown (s : State) : Host.Outcome State Fault Refusal :=
  s.inTurn s.headPort.downDue { s.tallyCutShort .head with headPort := s.headPort.lower }

/-- Every QUIET node becomes IDLE (R123). -/
def endQuiet (e : NodeEntry) : NodeEntry :=
  match e.state with
  | .quiet _ => { e with state := .idle }
  | _ => e

/-- The field line's change to DOWN at the Exchange Table, the arbiter and the flag set (R98, R122, R123): ISSUED
exchanges oldest first, QUIET nodes, Receipt Queue, flag. DESIGN CHOICE, unsafe (log 28): the conclusion items of this event join
the Delivery List ahead of the FLAGS RAISED notice that the flag makes owed. -/
def State.loseField (s : State) (arrived : Bool) : State :=
  let s1 := { s.endFieldReceive arrived with inFlight := none, receipts := [] }
  let s2 := (s1.slotsByAge fun e => e.state == .issued).foldl State.loseIssue s1
  State.raiseFlag { s2 with nodes := s2.nodes.map endQuiet } .fieldLineLoss

/-- A node's ANSWER or DEFER waits in the queue before the next tick (log 25). -/
def State.replyWaits (s : State) : Bool :=
  s.thisTick.any isReply

/-- FIELD_LINE_DOWN (R7, R122). A frame whose arrival waits in the queue behind the change, before the next tick, had its last
byte taken first at the port; it is then judged and handed on by that arrival (R5, R125, log 25). -/
def execFieldLineDown (s : State) : Host.Outcome State Fault Refusal :=
  s.inTurn s.fieldPort.downDue (s.loseField s.replyWaits)

end Sys2Proof.Machine
end

