-- ==== Sys2Proof/Machine/Directives.lean ====
section
/-! DEFINITION. The directives (chapters 2 to 4, 8 to 11). Each is taken from the front of the Head Intake, judged and
executed whole at its taking, and acknowledged (R22, R24 to R26). -/

namespace Sys2Proof.Machine

/-! ## Taking a directive -/

/-- What a directive's execution gives: the state after it, the status and the result data (R24, R26). -/
structure Reply where
  state : State
  status : AckStatus
  result : List Byte
  deriving DecidableEq, Repr

/-- A directive that changes nothing and answers a status alone (R13, R25). -/
def Reply.only (s : State) (status : AckStatus) : Reply :=
  { state := s, status := status, result := [] }

/-- A directive that answers DONE with result data. -/
def Reply.done (s : State) (result : List Byte) : Reply :=
  { state := s, status := .done, result := result }

/-- The intake's first frame, when it is a DIRECTIVE whose code satisfies a test and a control place is available to it
(R21). -/
def State.directiveReady (s : State) (test : Byte → Bool) : Option Frame :=
  match s.intake with
  | d :: _ => if d.kind = .directive ∧ test d.function ∧ s.controlFree then some d else none
  | [] => none

/-- The state in which a directive executes: taken from the intake and counted (R22, R24, R37). -/
def State.taken (s : State) : State :=
  State.tally { s with intake := s.intake.tail } .directivesTaken

/-- Taking a directive: it executes, and its ACKNOWLEDGE is placed behind the items it placed (R24). -/
def State.takeDirective (s : State) (test : Byte → Bool) (body : List Byte → State → Reply) :
    Host.Outcome State Fault Refusal :=
  match s.directiveReady test with
  | some d =>
    let reply := body d.payload s.taken
    .next (reply.state.place (acknowledgeFrame d reply.status reply.result))
  | none => .next s

/-- A directive named by its code. -/
def State.directive (s : State) (code : Byte) (body : List Byte → State → Reply) :
    Host.Outcome State Fault Refusal :=
  s.takeDirective (· == code) body

/-- A directive without arguments: BAD ARGUMENT for a Length other than 0 (R25). -/
def noArguments (body : State → Reply) (arguments : List Byte) (s : State) : Reply :=
  if arguments.isEmpty then body s else Reply.only s .badArgument

/-- A directive whose argument is one byte, judged by a reading of it (R25). -/
def oneByte {α : Type} (read : Nat → Option α) (body : α → State → Reply) (arguments : List Byte) (s : State) : Reply :=
  if arguments.length ≠ 1 then Reply.only s .badArgument
  else
    match read (byteAt arguments 0) with
    | some a => body a s
    | none => Reply.only s .badArgument

/-- A field node number, 1 to 62 (R17). -/
def fieldNodeOf (n : Nat) : Option Nat :=
  if 1 ≤ n ∧ n ≤ 62 then some n else none

/-- A slot number, 0 to 23 (R67). -/
def slotOf (n : Nat) : Option Slot :=
  if h : n < 24 then some ⟨n, h⟩ else none

/-- A head tag, 0 to 63 (R117). -/
def headTagOf (n : Nat) : Option Byte :=
  if n ≤ 63 then some (byte n) else none

/-! ## The Directive unit (chapter 2) -/

/-- UNKNOWN_DIRECTIVE (R25): a code not in the index. -/
def execUnknownDirective (s : State) : Host.Outcome State Fault Refusal :=
  s.takeDirective (fun code => !directiveCodes.contains code)
    fun _ s => Reply.only (s.tally .unknownDirectives) .unknownDirective

/-- FETCH_IDENTITY (R27). -/
def execFetchIdentity (s : State) : Host.Outcome State Fault Refusal :=
  s.directive 0x01 (noArguments fun s => Reply.done s identityResult)

/-- The staged cycle length after Set Parameters writes a length (R30). -/
def stagedAfter (inForce written : Nat) : Option Nat :=
  if written = inForce then none else some written

/-- The parameters applied (R30, R151, R157): the Cycle Length is staged, a change of Clock Mode ends the miss run, and a
change of SYNC Filter or Polarity counts a level change under way afresh. A change that the present tick's sample has
already qualified stays to be taken (R159, log 14). -/
def State.applyParameters (s : State) (p : Parameters) : State :=
  let modeChanged := p.clockMode != s.params.clockMode
  let qualifierChanged := p.syncFilter != s.params.syncFilter || p.syncPolarity != s.params.syncPolarity
  { s with
    params := { p with cycleLength := s.params.cycleLength }
    stagedLength := stagedAfter s.params.cycleLength p.cycleLength
    missRun := if modeChanged then 0 else s.missRun
    lossRaised := if modeChanged then false else s.lossRaised
    syncRun := if qualifierChanged then 0 else s.syncRun }

/-- Set Parameters: all or nothing, the SYNC Tolerance being below the length in force and the image's (R29). -/
def setParametersBody (arguments : List Byte) (s : State) : Reply :=
  match parametersOfImage arguments with
  | some p =>
    if p.syncTolerance < s.params.cycleLength then Reply.only (s.applyParameters p) .done
    else Reply.only s .badArgument
  | none => Reply.only s .badArgument

/-- SET_PARAMETERS (R29, R30). -/
def execSetParameters (s : State) : Host.Outcome State Fault Refusal :=
  s.directive 0x02 setParametersBody

/-- READ_PARAMETERS (R31). -/
def execReadParameters (s : State) : Host.Outcome State Fault Refusal :=
  s.directive 0x03 (noArguments fun s => Reply.done s (parametersResult s.params s.stagedLength))

/-- READ_FLAGS (R35). -/
def execReadFlags (s : State) : Host.Outcome State Fault Refusal :=
  s.directive 0x04 (noArguments fun s => Reply.done s (flagsResult s.flagEvent s.flags))

/-- A Clear Flags argument is in range: one to six pairs, flag numbers 0 to 5, none twice (R14, R36). -/
def clearArgumentValid (arguments : List Byte) : Bool :=
  decide (arguments.length % 3 = 0 ∧ 3 ≤ arguments.length ∧ arguments.length ≤ 18) &&
  (clearPairs arguments).all (fun p => decide (p.1 < 6)) &&
  decide ((clearPairs arguments).map Prod.fst).Nodup

/-- Clear Flags: PARTIAL when a flag named is still raised (R36). -/
def clearFlagsBody (arguments : List Byte) (s : State) : Reply :=
  if clearArgumentValid arguments then
    let cleared := clearFlagPairs s.flags (clearPairs arguments)
    { state := { s with flags := cleared.1 },
      status := if cleared.2.contains 0x01 then .partialDone else .done,
      result := cleared.2 }
  else Reply.only s .badArgument

/-- CLEAR_FLAGS (R36). -/
def execClearFlags (s : State) : Host.Outcome State Fault Refusal :=
  s.directive 0x05 clearFlagsBody

/-- READ_COUNTERS (R37): the snapshot includes its own taking. -/
def execReadCounters (s : State) : Host.Outcome State Fault Refusal :=
  s.directive 0x06 (noArguments fun s => Reply.done s (countersResult s.counters))

/-- READ_TIMEBASE (R153). -/
def execReadTimebase (s : State) : Host.Outcome State Fault Refusal :=
  s.directive 0x07 (noArguments fun s => Reply.done s (timebaseResult s))

/-! ## The Policy Table (chapter 3) -/

/-- Load Policy (R47). -/
def loadPolicyBody (arguments : List Byte) (s : State) : Reply :=
  match policyOfImage arguments with
  | some p =>
    if (findPolicy s.policies p.key).isSome then
      Reply.only { s with policies := storePolicy p s.policies } .replaced
    else if s.policies.length < Config.policyCapacity then
      Reply.only { s with policies := storePolicy p s.policies } .done
    else Reply.only s .tableFull
  | none => Reply.only s .badArgument

/-- LOAD_POLICY (R47). -/
def execLoadPolicy (s : State) : Host.Outcome State Fault Refusal :=
  s.directive 0x08 loadPolicyBody

/-- Drop Policy (R48). -/
def dropPolicyBody (arguments : List Byte) (s : State) : Reply :=
  match keyOfImage arguments with
  | some k =>
    if (findPolicy s.policies k).isSome then
      Reply.only { s with policies := dropPolicyKey s.policies k } .done
    else Reply.only s .notFound
  | none => Reply.only s .badArgument

/-- DROP_POLICY (R48). -/
def execDropPolicy (s : State) : Host.Outcome State Fault Refusal :=
  s.directive 0x09 dropPolicyBody

/-- Read Policy (R49). -/
def readPolicyBody (arguments : List Byte) (s : State) : Reply :=
  match keyOfImage arguments with
  | some k =>
    match findPolicy s.policies k with
    | some p => Reply.done s (policyImage p)
    | none => Reply.only s .notFound
  | none => Reply.only s .badArgument

/-- READ_POLICY (R49). -/
def execReadPolicy (s : State) : Host.Outcome State Fault Refusal :=
  s.directive 0x0A readPolicyBody

/-! ## Exchanges and nodes (chapters 4 and 8) -/

/-- READ_EXCHANGE (R67). -/
def execReadExchange (s : State) : Host.Outcome State Fault Refusal :=
  s.directive 0x10 (oneByte slotOf fun i s => Reply.done s (exchangeImage (s.slot i)))

/-- READ_NODE (R68). -/
def execReadNode (s : State) : Host.Outcome State Fault Refusal :=
  s.directive 0x11
    (oneByte fieldNodeOf fun n s =>
      Reply.done s (nodeImage (s.node n) (s.storeCount n false) (s.storeCount n true)))

/-- The open HEAD-origin exchange that carries a head tag (R117). -/
def State.slotOfTag (s : State) (tag : Byte) : Option Slot :=
  allSlots.find? fun i =>
    match s.slot i with
    | some e => e.origin == .head tag
    | none => false

/-- Whether a cancel comes too late: CONCLUDED, or a broadcast in transmission (R118). -/
def tooLateToCancel (e : Exchange) : Bool :=
  e.state == .concluded || (e.state == .issued && e.node == Config.broadcastNode)

/-- The two result bytes of Cancel Exchange: the state found and the slot (R117). -/
def cancelResult (i : Slot) (e : Exchange) : List Byte :=
  [byte (exchangeStateCode e.state), byte i.val]

/-- Cancel Exchange on the slot found (R117, R118). -/
def cancelExchangeBody (tag : Byte) (s : State) : Reply :=
  match s.slotOfTag tag with
  | some i =>
    match s.slot i with
    | some e =>
      if tooLateToCancel e then { state := s, status := .tooLate, result := cancelResult i e }
      else { state := s.endExchange i e .cancelled, status := .done, result := cancelResult i e }
    | none => Reply.only s .notFound
  | none => Reply.only s .notFound

/-- CANCEL_EXCHANGE (R117). -/
def execCancelExchange (s : State) : Host.Outcome State Fault Refusal :=
  s.directive 0x12 (oneByte headTagOf cancelExchangeBody)

/-- Whether Cancel Node reaches an exchange: addressed to the node and not CONCLUDED (R119). -/
def cancelsAtNode (n : Nat) (e : Exchange) : Bool :=
  e.node == n && e.state != .concluded

/-- One exchange of a Cancel Node (R118, R119). -/
def State.cancelSlot (s : State) (i : Slot) : State :=
  match s.slot i with
  | some e => s.endExchange i e .cancelled
  | none => s

/-- Cancel Node: oldest first (R119). -/
def cancelNodeBody (n : Nat) (s : State) : Reply :=
  let reached := s.slotsByAge (cancelsAtNode n)
  Reply.done (reached.foldl State.cancelSlot s) [byte reached.length]

/-- CANCEL_NODE (R119). -/
def execCancelNode (s : State) : Host.Outcome State Fault Refusal :=
  s.directive 0x13 (oneByte fieldNodeOf cancelNodeBody)

/-! ## Grants (chapter 9) -/

/-- Post Grant's status (R138). -/
def grantStatus (credit k : Nat) : AckStatus :=
  if Config.maxCredit < credit + k then .saturated else .done

/-- Post Grant (R138). -/
def postGrantBody (arguments : List Byte) (s : State) : Reply :=
  if arguments.length ≠ 2 then Reply.only s .badArgument
  else
    match fieldNodeOf (byteAt arguments 0) with
    | some n =>
      let k := byteAt arguments 1
      if k = 0 ∨ 15 < k then Reply.only s .badArgument
      else
        { state := s.grant n k,
          status := grantStatus (s.node n).credit k,
          result :=
            [byte ((s.node n).parkOrder.length - ((s.grant n k).node n).parkOrder.length),
              byte ((s.grant n k).node n).credit] }
    | none => Reply.only s .badArgument

/-- POST_GRANT (R138). -/
def execPostGrant (s : State) : Host.Outcome State Fault Refusal :=
  s.directive 0x18 postGrantBody

/-- WITHDRAW_GRANT (R139). -/
def execWithdrawGrant (s : State) : Host.Outcome State Fault Refusal :=
  s.directive 0x19
    (oneByte fieldNodeOf fun n s =>
      Reply.done (s.updateNode n fun e => { e with credit := 0 }) [byte (s.node n).credit])

/-- DISCARD_PARKED (R140). -/
def execDiscardParked (s : State) : Host.Outcome State Fault Refusal :=
  s.directive 0x1A
    (oneByte fieldNodeOf fun n s => Reply.done (s.discard n) [byte (s.node n).parkOrder.length])

/-! ## The Cycle Schedule (chapter 11) -/

/-- The cycle length that will be in force (R163). -/
def State.lengthToCome (s : State) : Nat :=
  s.stagedLength.getD s.params.cycleLength

/-- Where a valid image goes by the entry's state, with the result byte (R163). -/
def loadEntry (fields : ScheduleFields) (e : ScheduleEntry) : ScheduleEntry × Byte :=
  match e.state with
  | .empty => ({ e with state := .idle, live := some fields }, 0x00)
  | .idle => ({ e with live := some fields }, 0x00)
  | .armed => ({ e with staged := some fields }, if e.staged.isSome then 0x02 else 0x01)

/-- Load Schedule Entry (R163). -/
def loadScheduleEntryBody (arguments : List Byte) (s : State) : Reply :=
  match loadEntryOfImage arguments with
  | some (k, fields) =>
    if fields.phase < s.lengthToCome then
      Reply.done (s.updateEntry k fun e => (loadEntry fields e).1) [(loadEntry fields (s.entry k)).2]
    else Reply.only s .badArgument
  | none => Reply.only s .badArgument

/-- LOAD_SCHEDULE_ENTRY (R163). -/
def execLoadScheduleEntry (s : State) : Host.Outcome State Fault Refusal :=
  s.directive 0x20 loadScheduleEntryBody

/-- Whether a live phase fits the length in force and the staged length (R164). -/
def State.phaseFits (s : State) (phase : Nat) : Bool :=
  decide (phase < s.params.cycleLength) && s.stagedLength.all fun l => decide (phase < l)

/-- An entry becoming ARMED; the mark is set when its phase has already been reached (R164). -/
def armed (clockPhase : Nat) (live : ScheduleFields) (e : ScheduleEntry) : ScheduleEntry :=
  { e with state := .armed, fired := e.fired || decide (live.phase ≤ clockPhase) }

/-- Arm Entry (R164). -/
def armEntryBody (k : EntryIndex) (s : State) : Reply :=
  match (s.entry k).state, (s.entry k).live with
  | .armed, _ => Reply.only s .done
  | .idle, some live =>
    if s.phaseFits live.phase then Reply.only (s.updateEntry k (armed s.phase live)) .done
    else Reply.only s .wrongState
  | .idle, none => Reply.only s .wrongState
  | .empty, _ => Reply.only s .wrongState

/-- ARM_ENTRY (R164). -/
def execArmEntry (s : State) : Host.Outcome State Fault Refusal :=
  s.directive 0x21 (oneByte entryIndexOf armEntryBody)

/-- An ARMED entry becoming IDLE, its staged copy becoming its live fields (R165, R171). -/
def disarmed (e : ScheduleEntry) : ScheduleEntry :=
  match e.state with
  | .armed => { e with state := .idle, live := e.staged.orElse fun _ => e.live, staged := none }
  | .idle => e
  | .empty => e

/-- Disarm Entry (R165). -/
def disarmEntryBody (k : EntryIndex) (s : State) : Reply :=
  match (s.entry k).state with
  | .armed => Reply.only (s.updateEntry k disarmed) .done
  | .idle => Reply.only s .done
  | .empty => Reply.only s .wrongState

/-- DISARM_ENTRY (R165). -/
def execDisarmEntry (s : State) : Host.Outcome State Fault Refusal :=
  s.directive 0x22 (oneByte entryIndexOf disarmEntryBody)

/-- An entry emptied; its open-exchange reference and statistics are kept (R165). -/
def clearedEntry (e : ScheduleEntry) : ScheduleEntry :=
  { e with state := .empty, live := none, staged := none, fired := false }

/-- CLEAR_ENTRY (R165). -/
def execClearEntry (s : State) : Host.Outcome State Fault Refusal :=
  s.directive 0x23 (oneByte entryIndexOf fun k s => Reply.only (s.updateEntry k clearedEntry) .done)

/-- READ_SCHEDULE_ENTRY (R166). -/
def execReadScheduleEntry (s : State) : Host.Outcome State Fault Refusal :=
  s.directive 0x24 (oneByte entryIndexOf fun k s => Reply.done s (scheduleResult (s.entry k)))

end Sys2Proof.Machine
end

