-- ==== Sys2Proof/Machine/Reset.lean ====
section
/-! DEFINITION. RESET# and the Restart directive (R69, R126 to R128, R146, R171, R178). -/

namespace Sys2Proof.Machine

/-- RESET (R128): every block at its initial state. The commands that wait are no state of the part (log 8). -/
def execReset (s : State) : Host.Outcome State Fault Refusal :=
  .next { State.reset with pending := s.pending }

/-- A node entry at Restart: IDLE, latencies 0, report side cleared, the issue number kept (R66, R69, R146). -/
def restartedNode (e : NodeEntry) : NodeEntry :=
  { NodeEntry.initial with issueNumber := e.issueNumber }

/-- A schedule entry at Restart: disarmed with its staged copy promoted, the reference cleared (R171). -/
def restartedEntry (e : ScheduleEntry) : ScheduleEntry :=
  { disarmed e with openSlot := none }

/-- Whether the Delivery List holds a FLAGS RAISED notice (R34, R178). -/
def State.holdsFlagsNotice (s : State) : Bool :=
  s.delivery.any fun
    | .control f => isFlagsRaised f
    | .conclusion _ => false
    | .report _ => false

/-- The traffic state cleared, and everything R128 names kept (R126, R127). The receive side of both ports is not touched
(R129). -/
def State.restarted (s : State) : State :=
  { s with
    headPort := s.headPort.idle
    fieldPort := s.fieldPort.idle
    slots := Vector.replicate 24 none
    pendingOrder := []
    deferralList := []
    nodes := s.nodes.map restartedNode
    scheduleRun := 0
    inFlight := none
    receipts := []
    store := Vector.replicate 16 none
    owedOrder := []
    schedule := s.schedule.map restartedEntry
    delivery := []
    flagsOwed := s.flagsOwed || s.holdsFlagsNotice }

/-- RESTART (R126): its ACKNOWLEDGE becomes the only item of the emptied Delivery List. -/
def execRestart (s : State) : Host.Outcome State Fault Refusal :=
  s.directive 0x3F (noArguments fun s => Reply.only s.restarted .done)

end Sys2Proof.Machine
end

