-- ==== Sys2Proof/Machine/Tick.lean ====
section
/-! DEFINITION. The tick (R147, R149, R151, R7), and what is due before the next one. -/

namespace Sys2Proof.Machine

/-! ## What is due -/

/-- A line change is due (R7). -/
def State.lineDue (s : State) : Bool :=
  s.headPort.upDue || s.headPort.downDue || s.fieldPort.upDue || s.fieldPort.downDue

/-- A transmit completion is due (R8). -/
def State.completionDue (s : State) : Bool :=
  s.headPort.completing s.now || s.fieldPort.completing s.now

/-- A timer of an exchange or of a QUIET node is due (R57, R64). -/
def State.timerDue (s : State) : Bool :=
  (allSlots.any fun i =>
    (s.windowExpires i).isSome || (s.reissueReached i).isSome || (s.lifetimeReached i).isSome) ||
  allNodes.any s.quietReached

/-- A cycle start, a SYNC edge, a qualified level change or a firing is due (R149, R151, R168). -/
def State.clockDue (s : State) : Bool :=
  s.advanceHeld || s.levelDue || s.firstFiring.isSome

/-- The intake's first frame can be taken, or a claim can be handed a control place (R21, R174). -/
def State.handingDue (s : State) : Bool :=
  s.takeReady || s.flagsNoticeReady || s.grantNoticeNode.isSome

/-- A transmission can start (R85, R175). -/
def State.startDue (s : State) : Bool :=
  s.headStart.isSome || s.fieldChoice.isSome

/-- Nothing of the present tick is left to be taken: every event happens at the first moment at which it can (R21, R57,
R85, R147, R174, R175), so the next tick comes only then (log 3). -/
def State.settled (s : State) : Bool :=
  !(s.lineDue || s.replyDue || s.completionDue || s.timerDue || s.clockDue || s.handingDue || s.startDue)

/-! ## The tick -/

/-- The run count of a port after a tick (R7): ticks of valid signal while DOWN, ticks without it while UP. -/
def Port.sample (p : Port) (valid : Bool) : Port :=
  { p with run := if valid = p.up then 0 else p.run + 1 }

/-- The SYNC qualifier's sample (R151): the sample at which the run count reaches SYNC Filter qualifies the change, under the
Filter and the Polarity of that sample. -/
def State.sampleSync (s : State) (level : Bool) : State :=
  if s.sampled then
    if level = s.qualifiedLevel then { s with syncRun := 0 }
    else
      { s with
        syncRun := s.syncRun + 1
        levelChange :=
          if s.params.syncFilter ≤ s.syncRun + 1 then some (changeFrom s.params.syncPolarity s.qualifiedLevel)
          else s.levelChange }
  else { s with sampled := true, qualifiedLevel := level, syncRun := 0 }

/-- The tick's advance of the phase (R149): held when it would reach the cycle length, and, when a SYNC edge due at this
tick is taken before it, held behind the edge (R159, log 4, log 5). -/
def State.advance (s : State) (edgeFirst : Bool) : State :=
  if s.atCycleEnd || (edgeFirst && s.edgeDue) then { s with advanceHeld := true }
  else { s with phase := s.phase + 1 }

/-- A tick's effect on the two ports, the monotonic count, the qualifier and the phase. -/
def State.ticked (s : State) (sync headSignal fieldSignal edgeFirst : Bool) : State :=
  (State.sampleSync
    { s with
      now := s.now + 1
      headPort := s.headPort.sample headSignal
      fieldPort := s.fieldPort.sample fieldSignal }
    sync).advance edgeFirst

/-- TICK (R147, R149, R151, R7). -/
def execTick (sync headSignal fieldSignal edgeFirst : Bool) (s : State) : Host.Outcome State Fault Refusal :=
  s.whenever s.settled (s.ticked sync headSignal fieldSignal edgeFirst)

end Sys2Proof.Machine
end

