-- ==== Sys2Proof/Machine/Dispatch.lean ====
section
/-! DEFINITION. The meaning of every command: one arm for each row of spec/opcode_table.json. -/

namespace Sys2Proof.Machine

def exec (i : Instr) (s : State) : Host.Outcome State Fault Refusal :=
  match i with
  | .reset => Sys2Proof.Machine.execReset s
  | .requestArrival node tag function payload => Sys2Proof.Machine.execRequestArrival node tag function payload s
  | .directiveArrival number code arguments => Sys2Proof.Machine.execDirectiveArrival number code arguments s
  | .malformedFrame line bytes => Sys2Proof.Machine.execMalformedFrame line bytes s
  | .answerArrival node tag function payload => Sys2Proof.Machine.execAnswerArrival node tag function payload s
  | .deferArrival node tag function payload => Sys2Proof.Machine.execDeferArrival node tag function payload s
  | .reportArrival node sequence function payload => Sys2Proof.Machine.execReportArrival node sequence function payload s
  | .headLineDown => Sys2Proof.Machine.execHeadLineDown s
  | .headLineUp => Sys2Proof.Machine.execHeadLineUp s
  | .fieldLineDown => Sys2Proof.Machine.execFieldLineDown s
  | .fieldLineUp => Sys2Proof.Machine.execFieldLineUp s
  | .issueSelection => Sys2Proof.Machine.execIssueSelection s
  | .broadcastSelection => Sys2Proof.Machine.execBroadcastSelection s
  | .receiptTransmitStart => Sys2Proof.Machine.execReceiptTransmitStart s
  | .issueTransmitCompletion => Sys2Proof.Machine.execIssueTransmitCompletion s
  | .broadcastTransmitCompletion => Sys2Proof.Machine.execBroadcastTransmitCompletion s
  | .receiptTransmitCompletion => Sys2Proof.Machine.execReceiptTransmitCompletion s
  | .headTransmitStart => Sys2Proof.Machine.execHeadTransmitStart s
  | .outcomeTransmitCompletion => Sys2Proof.Machine.execOutcomeTransmitCompletion s
  | .reportDeliveryCompletion => Sys2Proof.Machine.execReportDeliveryCompletion s
  | .controlTransmitCompletion => Sys2Proof.Machine.execControlTransmitCompletion s
  | .answerWindowExpiry slot => Sys2Proof.Machine.execAnswerWindowExpiry slot s
  | .reissueDue slot => Sys2Proof.Machine.execReissueDue slot s
  | .lifetimeEnd slot => Sys2Proof.Machine.execLifetimeEnd slot s
  | .quietUntilReached node => Sys2Proof.Machine.execQuietUntilReached node s
  | .cycleStart => Sys2Proof.Machine.execCycleStart s
  | .syncEdge => Sys2Proof.Machine.execSyncEdge s
  | .qualifiedLevelChange => Sys2Proof.Machine.execQualifiedLevelChange s
  | .scheduleFiring entry => Sys2Proof.Machine.execScheduleFiring entry s
  | .takeRequest => Sys2Proof.Machine.execTakeRequest s
  | .unknownDirective => Sys2Proof.Machine.execUnknownDirective s
  | .fetchIdentity => Sys2Proof.Machine.execFetchIdentity s
  | .setParameters => Sys2Proof.Machine.execSetParameters s
  | .readParameters => Sys2Proof.Machine.execReadParameters s
  | .readFlags => Sys2Proof.Machine.execReadFlags s
  | .clearFlags => Sys2Proof.Machine.execClearFlags s
  | .readCounters => Sys2Proof.Machine.execReadCounters s
  | .readTimebase => Sys2Proof.Machine.execReadTimebase s
  | .loadPolicy => Sys2Proof.Machine.execLoadPolicy s
  | .dropPolicy => Sys2Proof.Machine.execDropPolicy s
  | .readPolicy => Sys2Proof.Machine.execReadPolicy s
  | .readExchange => Sys2Proof.Machine.execReadExchange s
  | .readNode => Sys2Proof.Machine.execReadNode s
  | .cancelExchange => Sys2Proof.Machine.execCancelExchange s
  | .cancelNode => Sys2Proof.Machine.execCancelNode s
  | .postGrant => Sys2Proof.Machine.execPostGrant s
  | .withdrawGrant => Sys2Proof.Machine.execWithdrawGrant s
  | .discardParked => Sys2Proof.Machine.execDiscardParked s
  | .loadScheduleEntry => Sys2Proof.Machine.execLoadScheduleEntry s
  | .armEntry => Sys2Proof.Machine.execArmEntry s
  | .disarmEntry => Sys2Proof.Machine.execDisarmEntry s
  | .clearEntry => Sys2Proof.Machine.execClearEntry s
  | .readScheduleEntry => Sys2Proof.Machine.execReadScheduleEntry s
  | .restart => Sys2Proof.Machine.execRestart s
  | .flagsRaisedNoticePlaced => Sys2Proof.Machine.execFlagsRaisedNoticePlaced s
  | .grantWantedNoticePlaced => Sys2Proof.Machine.execGrantWantedNoticePlaced s
  | .tick sync headSignal fieldSignal edgeFirst => Sys2Proof.Machine.execTick sync headSignal fieldSignal edgeFirst s
  | .startPatternSeen line => Sys2Proof.Machine.execStartPatternSeen line s

end Sys2Proof.Machine
end

