-- ==== Sys2Proof/Safety.lean ====
section
/-! DEFINITION. What a safe state is: the laws the manual says always hold. Each is kept by every step from every state
that meets it, not only on runs from RESET#. -/

namespace Sys2Proof.Machine

/-! ## Terms of the statements -/

/-- A DIRECTIVE of a code stands first in the Head Intake, and a control place is free for its ACKNOWLEDGE (R21, R22). -/
def State.directiveFirst (s : State) (d : Frame) (code : Byte) : Prop :=
  s.intake.head? = some d ∧ d.kind = .directive ∧ d.function = code ∧ s.controlUsed < 8

/-- The state after a directive that has no effect but its answer: it has left the intake, the directives taken counter has
risen by 1, and its ACKNOWLEDGE stands last in the Delivery List (R13, R22, R24). -/
def State.acknowledged (s : State) (d : Frame) (status : AckStatus) (result : List Byte) : State :=
  { s with
    intake := s.intake.tail
    counters := (s.tally .directivesTaken).counters
    delivery := s.delivery ++
      [.control
        { kind := .acknowledge, node := 0, tag := d.tag, function := d.function,
          payload := byte (statusCode status) :: result }] }

/-- The intake's first frame claims no control place: there is none, or it is a REQUEST that Admission would accept (R174). -/
def State.noIntakeClaim (s : State) : Prop :=
  s.intake = [] ∨ ∃ f rest p, s.intake = f :: rest ∧ f.kind = .request ∧ s.judgeRequest f = .accept p

/-- No control place is being handed: none is free, or no claim waits for one (R174). -/
def State.noHanding (s : State) : Prop :=
  8 ≤ s.controlUsed ∨ s.noIntakeClaim ∧ s.flagsOwed = false ∧ s.owedOrder = []

/-- A frame can be handed on by a line's port: the line is UP, a start pattern has been seen (R5, R7), and no control place is
being handed (R174, log 24). -/
def State.receivingOn (s : State) (line : Line) : Prop :=
  (s.port line).up = true ∧ (s.port line).receive = .receiving ∧ s.noHanding

/-- A node's ANSWER or DEFER can be handed on by the field port: as it arrives, or behind the change to DOWN before which its last
byte came (R5, R125, log 25). -/
def State.receivingReply (s : State) : Prop :=
  s.fieldPort.receive = .arrived ∨ s.receivingOn .field

/-- A command stands in the queue before the next tick: it falls at the present one (log 1). -/
def State.comes (s : State) (c : Instr) : Prop :=
  ∃ before after, s.pending = before ++ c :: after ∧ ∀ b ∈ before, isTick b = false

/-- A node's ANSWER or DEFER stands in the queue before the next tick: the frame being received has its last byte at this
tick (log 25). -/
def State.frameEnds (s : State) : Prop :=
  ∃ c, s.comes c ∧ isReply c = true

/-- The state once a port has handed on a good frame: its receive state is idle, and the frame is counted (R6). -/
def State.received (s : State) (line : Line) : State :=
  State.tally (s.setPort line { s.port line with receive := .idle }) (goodCounter line)

/-- The exchange that a node's ANSWER or DEFER belongs to: the node is OCCUPIED by its slot, it is ISSUED to that node with
its answer window open and its last issue completed (R99). -/
def State.awaits (s : State) (n : Nat) (i : Slot) (e : Exchange) (completed : Mono) : Prop :=
  (s.node n).state = .occupied i ∧ s.slot i = some e ∧ e.state = .issued ∧ e.node = n ∧ e.answerDue.isSome = true ∧
    e.lastCompletion = some completed

/-- A transmission of the field port has reached its end (R8). -/
def State.fieldSent (s : State) : Prop :=
  ∃ x, s.fieldPort.tx = some x ∧ reached s.now x.completes = true

/-- A transmission of the head port has reached its end (R8). -/
def State.headSent (s : State) : Prop :=
  ∃ x, s.headPort.tx = some x ∧ reached s.now x.completes = true

/-- A slot whose exchange, of the origin given, can be chosen (R87, R89). -/
def State.candidate (s : State) (schedule : Bool) (i : Slot) : Prop :=
  ∃ e, s.slot i = some e ∧ e.origin.isSchedule = schedule ∧ s.eligible e = true

/-- The first slot of the pending order whose exchange, of the origin given, can be chosen (R90). -/
def State.oldestCandidate (s : State) (schedule : Bool) (i : Slot) : Prop :=
  s.candidate schedule i ∧
    ∃ before behind, s.pendingOrder = before ++ i :: behind ∧ ∀ j ∈ before, ¬ s.candidate schedule j

/-- A receipt joins a queue of fewer than 8 and is counted as dropped at a full one (R136). -/
def State.receiptOwed (s : State) (r : Receipt) : State :=
  if s.receipts.length < 8 then { s with receipts := s.receipts ++ [r] } else s.tally .receiptsDropped

/-- The state once the exchange of a slot has concluded with an outcome that carries no answer, but for its node: the record
with its outcome and its timers disarmed, out of both collections, its conclusion item last in the Delivery List, and the
outcome counted (R101). -/
def State.concludedAs (s : State) (i : Slot) (e : Exchange) (o : OutcomeCode) : State :=
  { s with
    slots := s.slots.set i
      (some { e with
        state := .concluded, outcome := some o, lifetimeArmed := false, answerDue := none, reissueDue := none })
    pendingOrder := s.pendingOrder.filter (· != i)
    deferralList := s.deferralList.filter (· != i)
    delivery := s.delivery ++ [.conclusion i]
    counters := (s.tally (.outcomes o)).counters }

/-- The admission sequence of a slot's exchange; 0 for a FREE slot, which no statement reads. -/
def State.sequenceOf (s : State) (i : Slot) : AdmissionSeq :=
  match s.slot i with
  | some e => e.admissionSeq
  | none => 0

/-- Whether the loss of the field line makes a slot's ISSUED exchange READY: addressed to a field node, its silent count
after the rise within the Silent Limit (R122). -/
def State.readyAtLoss (s : State) (i : Slot) : Bool :=
  match s.slot i with
  | some e => e.node != 63 && decide (e.silentCount + 1 ≤ e.snapshot.silentLimit)
  | none => false

/-- Whether an ARMED entry is cut at a cycle start: eligible in the ending cycle, its mark clear (R167, step 1). -/
def cutInCycle (ending : CycleCount) (e : ScheduleEntry) : Prop :=
  e.state = .armed ∧ e.fired = false ∧ ∃ live, e.live = some live ∧ ending.toNat % live.divisor = live.offset

/-- Whether an ARMED entry is disarmed for length at a cycle start: the phase of its staged copy or, without one, of its
live fields is not below the new cycle length (R167, steps 2 and 3). -/
def disarmedForLength (length : Nat) (e : ScheduleEntry) : Prop :=
  e.state = .armed ∧ ∃ live, (e.staged = some live ∨ e.staged = none ∧ e.live = some live) ∧ length ≤ live.phase

/-- A state u that stands after a cycle start of a kind in state s, before the firings of phase 0: the clock (R150, R156), and
the schedule's steps 1 to 6 on every entry with the flags they raise (R167). -/
structure State.CycleBegun (s : State) (kind : StartKind) (u : State) : Prop where
  phase : u.phase = 0
  cycle : u.cycle = s.cycle + 1
  length : u.params = { s.params with cycleLength := s.stagedLength.getD s.params.cycleLength }
  staged : u.stagedLength = none
  startKind : u.startKind = kind
  capture : u.capture = s.capture.map fun c => { c with currentCycle := false }
  missRun : u.missRun = if kind = .flywheel then min 255 (s.missRun + 1) else s.missRun
  lossRaised : u.lossRaised = true ↔
    s.lossRaised = true ∨ kind = .flywheel ∧ s.params.syncMissLimit ≤ min 255 (s.missRun + 1)
  cutOnce : ∀ k, cutInCycle s.cycle (s.entry k) → (u.entry k).cuts = (s.entry k).cuts + 1
  notCut : ∀ k, ¬ cutInCycle s.cycle (s.entry k) → (u.entry k).cuts = (s.entry k).cuts
  disarmed : ∀ k, disarmedForLength u.params.cycleLength (s.entry k) → (u.entry k).state = .idle
  stateKept : ∀ k, ¬ disarmedForLength u.params.cycleLength (s.entry k) → (u.entry k).state = (s.entry k).state
  promoted : ∀ k copy, (s.entry k).state = .armed → (s.entry k).staged = some copy →
    (u.entry k).live = some copy ∧ (u.entry k).staged = none
  liveKept : ∀ k, (s.entry k).state ≠ .armed ∨ (s.entry k).staged = none →
    (u.entry k).live = (s.entry k).live ∧ (u.entry k).staged = (s.entry k).staged
  entry : ∀ k, u.entry k =
    { s.entry k with
      state := (u.entry k).state, live := (u.entry k).live, staged := (u.entry k).staged, cuts := (u.entry k).cuts,
      fired := false }
  flags : ∃ slip cut lost : Bool,
    (slip = true ↔ ∃ i e k, s.slot i = some e ∧ e.origin = .schedule k ∧ e.state = .waiting ∧
      e.admissionCycle = s.cycle) ∧
    (cut = true ↔ ∃ k, cutInCycle s.cycle (s.entry k) ∨ disarmedForLength u.params.cycleLength (s.entry k)) ∧
    (lost = true ↔ kind = .flywheel ∧ s.lossRaised = false ∧ s.params.syncMissLimit ≤ min 255 (s.missRun + 1)) ∧
    ∀ v, v = ((s.raiseFlagIf slip .cycleSlip).raiseFlagIf cut .scheduleCut).raiseFlagIf lost .syncLost →
      u.flags = v.flags ∧ u.flagEvent = v.flagEvent ∧ u.flagsOwed = v.flagsOwed
  others : u =
    { s with
      phase := u.phase, cycle := u.cycle, params := u.params, stagedLength := u.stagedLength, startKind := u.startKind,
      capture := u.capture, missRun := u.missRun, lossRaised := u.lossRaised, schedule := u.schedule, flags := u.flags,
      flagEvent := u.flagEvent, flagsOwed := u.flagsOwed }

/-- The firings of phase 0 at a cycle start, in index order (R167, step 7). -/
def State.phaseZeroFirings (u : State) : State :=
  (List.finRange 32).foldl (fun st k => st.fireAt 0 k) u

/-- An entry that fires at a phase: ARMED with its mark clear, eligible in the current cycle, of that phase (R168). -/
def State.firing (s : State) (k : EntryIndex) (phase : Nat) (live : ScheduleFields) : Prop :=
  (s.entry k).state = .armed ∧ (s.entry k).fired = false ∧ (s.entry k).live = some live ∧
    s.cycle.toNat % live.divisor = live.offset ∧ live.phase = phase

/-- An event that comes about by itself when its conditions hold: every command but RESET, the arrivals, the start pattern
and the tick (log 3). -/
def ofItself : Instr → Bool
  | .reset | .requestArrival _ _ _ _ | .directiveArrival _ _ _ | .malformedFrame _ _ => false
  | .answerArrival _ _ _ _ | .deferArrival _ _ _ _ | .reportArrival _ _ _ _ => false
  | .startPatternSeen _ | .tick _ _ _ _ => false
  | _ => true

/-- The events that R85 names as making an exchange eligible. -/
def mayEnable : Instr → Bool
  | .answerWindowExpiry _ | .reissueDue _ | .lifetimeEnd _ | .quietUntilReached _ => true
  | .cycleStart | .syncEdge | .scheduleFiring _ | .takeRequest => true
  | _ => false

/-- The events that are not taken while a control place is being handed: all but RESET and the handings themselves, which are the
taking of the intake's first frame and the placing of a notice (R174, log 24). The taking of an admissible REQUEST is stated
beside them, and so is the frame that arrived as the field line went DOWN (log 25). -/
def waitsForHanding : Instr → Bool
  | .reset | .takeRequest | .flagsRaisedNoticePlaced | .grantWantedNoticePlaced => false
  | .unknownDirective | .fetchIdentity | .setParameters | .readParameters | .readFlags | .clearFlags => false
  | .readCounters | .readTimebase | .loadPolicy | .dropPolicy | .readPolicy | .readExchange | .readNode => false
  | .cancelExchange | .cancelNode | .postGrant | .withdrawGrant | .discardParked | .loadScheduleEntry => false
  | .armEntry | .disarmEntry | .clearEntry | .readScheduleEntry | .restart => false
  | _ => true

/-- A command by which a frame, or the start of one, reaches a line's port (section 1.3). -/
def reaches (line : Line) : Instr → Bool
  | .requestArrival _ _ _ _ | .directiveArrival _ _ _ => line == .head
  | .answerArrival _ _ _ _ | .deferArrival _ _ _ _ | .reportArrival _ _ _ _ => line == .field
  | .malformedFrame other _ | .startPatternSeen other => line == other
  | _ => false

/-- A frame's arrival on either line. -/
def isArrival : Instr → Bool
  | .requestArrival _ _ _ _ | .directiveArrival _ _ _ => true
  | .answerArrival _ _ _ _ | .deferArrival _ _ _ _ | .reportArrival _ _ _ _ => true
  | _ => false

/-- The record of an exchange admitted now: WAITING, with the next admission sequence, the policy found as its snapshot, its
lifetime end armed, every count 0 and every optional field absent (R77, R82). -/
def State.newExchange (s : State) (origin : Origin) (node : Nat) (function : Byte) (payload : List Byte) (p : Policy) :
    Exchange :=
  { state := .waiting, origin := origin, node := node, function := function, buffer := payload,
    admissionSeq := s.admissionCounter, admissionTime := s.now, admissionCycle := s.cycle, snapshot := p,
    lifetimeEnd := s.now + BitVec.ofNat 48 p.lifetime, lifetimeArmed := true,
    issueCount := 0, deferCount := 0, silentCount := 0,
    firstIssue := none, lastCompletion := none, answerDue := none, reissueDue := none,
    outcome := none, answer := none, truncated := false }

/-! ## The laws -/

/-- The parameters lie in their ranges, the SYNC Tolerance below every length that is or will be in force, and the phase
below the length in force (R28, R29, R148). -/
structure State.ClockLaw (s : State) : Prop where
  parameters : parametersValid s.params = true
  staged : ∀ l ∈ s.stagedLength, cycleLengthValid l = true ∧ s.params.syncTolerance < l
  phase : s.phase < s.params.cycleLength

/-- A port whose line is DOWN receives nothing and sends nothing; the head port has no frame still to hand on, and the field port
only while its line is DOWN (R7, R8, R124, log 25). -/
structure State.LineLaw (s : State) : Prop where
  receive : ∀ line, (s.port line).up = false → (s.port line).receive ≠ .receiving
  send : ∀ line, (s.port line).up = false → (s.port line).tx = none
  head : s.headPort.receive ≠ .arrived
  field : s.fieldPort.up = true → s.fieldPort.receive ≠ .arrived

/-- No collection passes its capacity: Head Intake, Receipt Queue, control places, Policy Table (R20, R40, R86, R172). -/
structure State.CapacityLaw (s : State) : Prop where
  intake : s.intake.length ≤ Config.intakeCapacity
  receipts : s.receipts.length ≤ Config.receiptCapacity
  control : s.controlUsed ≤ Config.controlPlaces
  policies : s.policies.length ≤ Config.policyCapacity

/-- Every entry of the Policy Table is valid, and no two hold the same key, the table standing in its canonical order
(R40, R43, log 11). -/
structure State.PolicyLaw (s : State) : Prop where
  valid : ∀ p ∈ s.policies, policyValid p = true
  sorted : s.policies.Pairwise fun p q => keyRank p.key < keyRank q.key

/-- An exchange with its progress fields blanked: what is left are the fields set at admission, none of which changes
while the exchange is open (R54). The slot buffer is blanked too, since an answer replaces it (R56). -/
def Exchange.fixedPart (e : Exchange) : Exchange :=
  { e with
    state := .waiting, buffer := [], lifetimeArmed := true, issueCount := 0, deferCount := 0, silentCount := 0,
    firstIssue := none, lastCompletion := none, answerDue := none, reissueDue := none,
    outcome := none, answer := none, truncated := false }

/-- No two open HEAD-origin exchanges carry the same head tag (R53). -/
def State.TagLaw (s : State) : Prop :=
  ∀ i j : Slot, ∀ e f : Exchange, ∀ tag : Byte,
    s.slot i = some e → s.slot j = some f → e.origin = .head tag → f.origin = .head tag → i = j

/-- The open-exchange reference of an entry names the one open exchange the entry fired (R169). -/
def State.ReferenceLaw (s : State) : Prop :=
  ∀ (i : Slot) (k : EntryIndex),
    (s.entry k).openSlot = some i ↔ ∃ e, s.slot i = some e ∧ e.origin = .schedule k

/-- A slot is referenced by a conclusion item exactly when its exchange is CONCLUDED, and by at most one (R101, R172). -/
structure State.ConclusionLaw (s : State) : Prop where
  concluded : ∀ i, Item.conclusion i ∈ s.delivery ↔ ∃ e, s.slot i = some e ∧ e.state = .concluded
  once : ∀ i, s.delivery.count (.conclusion i) ≤ 1

/-- The laws of exchanges and nodes: OCCUPIED exactly by the one ISSUED exchange, HELD exactly by the one DEFERRED or
READY exchange, and the two collections hold exactly their slots, once (R59, R60, R63). -/
structure State.ExchangeLaw (s : State) : Prop where
  nodes : ∀ i e, s.slot i = some e → 1 ≤ e.node ∧ e.node ≤ 63
  occupied : ∀ n i, (s.node n).state = .occupied i ↔
    n ≠ 63 ∧ ∃ e, s.slot i = some e ∧ e.node = n ∧ e.state = .issued
  held : ∀ n i, (s.node n).state = .held i ↔
    ∃ e, s.slot i = some e ∧ e.node = n ∧ (e.state = .deferred ∨ e.state = .ready)
  broadcast : ∀ i e, s.slot i = some e → e.node = 63 →
    e.answerDue = none ∧ e.state ≠ .deferred ∧ e.state ≠ .ready
  pendingOrder : ∀ i, i ∈ s.pendingOrder ↔
    ∃ e, s.slot i = some e ∧ (e.state = .waiting ∨ e.state = .ready)
  pendingOnce : s.pendingOrder.Nodup
  deferralList : ∀ i, i ∈ s.deferralList ↔ ∃ e, s.slot i = some e ∧ e.state = .deferred
  deferralOnce : s.deferralList.Nodup
  intake : ∀ f ∈ s.intake, f.node.toNat ≤ 63
  schedule : ∀ k live, (s.entry k).live = some live ∨ (s.entry k).staged = some live → scheduleFieldsValid live = true

/-- The laws of the Report Store: each park order holds exactly its node's PARKED entries, once; a RELEASED entry is
referenced by exactly one report item; a node with credit has no PARKED entry; the notice state is NONE exactly when
the park order is empty; the owed-notice order holds exactly the OWED nodes, once (R131, R132, R137, R141). -/
structure State.ReportLaw (s : State) : Prop where
  parked : ∀ n k, k ∈ (s.node n).parkOrder ↔ ∃ r, s.stored k = some r ∧ r.node = n ∧ r.released = false
  parkedOnce : ∀ n, (s.node n).parkOrder.Nodup
  released : ∀ k, Item.report k ∈ s.delivery ↔ ∃ r, s.stored k = some r ∧ r.released = true
  releasedOnce : ∀ k, s.delivery.count (.report k) ≤ 1
  credit : ∀ n, (s.node n).credit ≤ Config.maxCredit
  creditOrPark : ∀ n, 0 < (s.node n).credit → (s.node n).parkOrder = []
  notice : ∀ n, (s.node n).notice = .none ↔ (s.node n).parkOrder = []
  owed : ∀ n, n ∈ s.owedOrder ↔ (s.node n).notice = .owed
  owedOnce : s.owedOrder.Nodup

/-- Every law at once. -/
structure State.Safe (s : State) : Prop where
  clock : s.ClockLaw
  line : s.LineLaw
  capacity : s.CapacityLaw
  policy : s.PolicyLaw
  tag : s.TagLaw
  reference : s.ReferenceLaw
  conclusion : s.ConclusionLaw
  exchange : s.ExchangeLaw
  report : s.ReportLaw

end Sys2Proof.Machine
end

