-- ==== Sys2Proof/WellFormed.lean ====
section
/-! DEFINITION. Well-formed commands: an arrival carries a frame that passes the receive checks (R5), a malformed frame bytes
that fail one, and a node timer a field node. -/

namespace Sys2Proof

/-- Whether a command's operands are ones its row allows. The other operands are bounded by their types. -/
def Instr.wf : Instr → Bool
  | .requestArrival node _ _ payload => decide (node.toNat ≤ 63) && decide (payload.length ≤ 240)
  | .directiveArrival _ _ arguments => decide (arguments.length ≤ 240)
  | .answerArrival node _ _ payload =>
    decide (1 ≤ node.toNat ∧ node.toNat ≤ 62) && decide (payload.length ≤ 200)
  | .deferArrival node _ _ payload =>
    decide (1 ≤ node.toNat ∧ node.toNat ≤ 62) && decide (payload.length = 0 ∨ payload.length = 4)
  | .reportArrival node _ _ payload =>
    decide (1 ≤ node.toNat ∧ node.toNat ≤ 62) && decide (payload.length ≤ 200)
  | .malformedFrame line bytes => !(Machine.judgeBytes line bytes).isGood
  | .quietUntilReached node => decide (1 ≤ node ∧ node ≤ 62)
  | .reset | .headLineDown | .headLineUp | .fieldLineDown | .fieldLineUp => true
  | .issueSelection | .broadcastSelection | .receiptTransmitStart => true
  | .issueTransmitCompletion | .broadcastTransmitCompletion | .receiptTransmitCompletion => true
  | .headTransmitStart | .outcomeTransmitCompletion | .reportDeliveryCompletion | .controlTransmitCompletion => true
  | .answerWindowExpiry _ | .reissueDue _ | .lifetimeEnd _ => true
  | .cycleStart | .syncEdge | .qualifiedLevelChange | .scheduleFiring _ => true
  | .takeRequest | .unknownDirective | .fetchIdentity | .setParameters | .readParameters => true
  | .readFlags | .clearFlags | .readCounters | .readTimebase => true
  | .loadPolicy | .dropPolicy | .readPolicy | .readExchange | .readNode => true
  | .cancelExchange | .cancelNode | .postGrant | .withdrawGrant | .discardParked => true
  | .loadScheduleEntry | .armEntry | .disarmEntry | .clearEntry | .readScheduleEntry | .restart => true
  | .flagsRaisedNoticePlaced | .grantWantedNoticePlaced | .tick _ _ _ _ | .startPatternSeen _ => true

end Sys2Proof
end

