-- ==== Sys2Proof/Certificates/Slice0/Obligations.lean ====
section
/-! DEFINITION. The statements for the provers. A result statement gives the whole next state as an equation, so that it says
at once that the command completes, what it changes, and that it changes nothing else. -/

section

open Sys2Proof Sys2Proof.Machine

/-! ## The step, reset and the laws every step keeps -/

/-- The front command of the queue is executed with the queue's rest, and on an empty queue the block idles. The queue
is the model's choice (log 1). -/
def Obligations.StepRunsFrontCommand : Prop :=
  (∀ (c : Instr) (rest : List Instr) (s : State), s.pending = c :: rest →
    step s = exec c { s with pending := rest }) ∧
  ∀ s : State, s.pending = [] → step s = .next s

/-- RESET gives every state the values that the manual states for RESET# (R7, R28, R32, R37, R52, R58, R62, R66, R84, R130,
R146, R148, R151, R152, R156, R160, R172). The waiting commands stay (log 8). -/
def Obligations.ResetLeavesInitialState : Prop :=
  (∀ s : State, exec .reset s = .next { State.reset with pending := s.pending }) ∧
  State.reset.headPort = { up := false, run := 0, receive := .idle, tx := none } ∧
  State.reset.fieldPort = { up := false, run := 0, receive := .idle, tx := none } ∧
  State.reset.params =
    { scheduleReserve := 2, acyclicShare := 4, clockMode := .free, cycleLength := 10000, syncPolarity := .rising,
      syncFilter := 3, syncTolerance := 50, syncMissLimit := 3, alertMask := 0 } ∧
  State.reset.stagedLength = none ∧
  (∀ f, State.reset.flag f = { raised := false, stamp := 0, count := 0 }) ∧
  State.reset.flagEvent = 0 ∧ State.reset.flagsOwed = false ∧
  (∀ c, State.reset.counter c = 0) ∧
  State.reset.policies = [] ∧ State.reset.intake = [] ∧ State.reset.delivery = [] ∧
  (∀ i, State.reset.slot i = none) ∧
  State.reset.admissionCounter = 0 ∧ State.reset.pendingOrder = [] ∧ State.reset.deferralList = [] ∧
  (∀ n, 1 ≤ n → n ≤ 62 →
    State.reset.node n =
      { state := .idle, issueNumber := 0, lastLatency := 0, maxLatency := 0, credit := 0, lastSequence := none,
        notice := .none, parkOrder := [] }) ∧
  State.reset.scheduleRun = 0 ∧ State.reset.inFlight = none ∧ State.reset.receipts = [] ∧
  (∀ k, State.reset.stored k = none) ∧ State.reset.owedOrder = [] ∧
  State.reset.now = 0 ∧ State.reset.phase = 0 ∧ State.reset.cycle = 0 ∧ State.reset.startKind = .reset ∧
  State.reset.missRun = 0 ∧ State.reset.lossRaised = false ∧ State.reset.capture = none ∧
  State.reset.sampled = false ∧ State.reset.syncRun = 0 ∧
  (∀ k, State.reset.entry k =
    { state := .empty, live := none, staged := none, openSlot := none, fired := false, fires := 0, overlapSkips := 0,
      noSlotSkips := 0, noPolicySkips := 0, cuts := 0, lastFire := none })

/-- The state after RESET# meets every law of Safety. -/
def Obligations.ResetIsSafe : Prop :=
  State.reset.Safe

/-- Every step keeps the parameters in their ranges, the SYNC Tolerance below every length in force or staged, and the
phase below the cycle length in force (R28, R29, R148); and it keeps a port whose line is DOWN neither receiving nor
transmitting (R7, R8, R124), with a frame still to be handed on at the field port alone, while its line is DOWN (log 25). -/
def Obligations.StepKeepsClockAndLineLaws : Prop :=
  (∀ s t : State, s.ClockLaw → step s = .next t → t.ClockLaw) ∧
  ∀ s t : State, s.LineLaw → step s = .next t → t.LineLaw

/-- Every step keeps every policy valid, the Policy Table in the canonical key order of the model, so that no two keys are equal,
and no collection above its capacity (R20, R40, R43, R86, R172). R40 calls the table unordered: the order is the model's
choice (log 11). -/
def Obligations.StepKeepsPolicyAndCapacityLaws : Prop :=
  ∀ s t : State, s.PolicyLaw → s.CapacityLaw → step s = .next t → t.PolicyLaw ∧ t.CapacityLaw

/-- Every step keeps head tags unique among open HEAD-origin exchanges, and each schedule entry's open-exchange reference
naming the one open exchange the entry fired (R53, R169). -/
def Obligations.StepKeepsTagAndReferenceLaws : Prop :=
  (∀ s t : State, s.TagLaw → step s = .next t → t.TagLaw) ∧
  ∀ s t : State, s.ReferenceLaw → step s = .next t → t.ReferenceLaw

/-- Every step keeps the laws of exchanges, nodes, the pending order, the deferral list and the conclusion items: a node is
OCCUPIED or HELD exactly by its one ISSUED, or DEFERRED or READY, exchange; the two collections hold exactly their slots,
once; and the CONCLUDED slots are exactly those one conclusion item references (R57, R59, R60, R61, R63, R172). -/
def Obligations.StepKeepsExchangeLaws : Prop :=
  ∀ s t : State, s.ExchangeLaw → s.ConclusionLaw → step s = .next t → t.ExchangeLaw ∧ t.ConclusionLaw

/-- Every step keeps the laws of the Report Store: park orders, report items, credits, notice states and the owed-notice
order agree with the store's entries, and a node with credit has nothing PARKED (R131, R132, R137, R141). -/
def Obligations.StepKeepsReportLaw : Prop :=
  ∀ s t : State, s.ReportLaw → step s = .next t → t.ReportLaw

/-! ## Frames and lines -/

/-- A frame of a kind a line accepts, within R5's limits, is built by its sender into bytes that pass every receive check and
are read back as the same frame (R1, R2, R3, R5). -/
def Obligations.SentFrameIsReceived : Prop :=
  ∀ (line : Line) (f : Frame),
    (line = .head ∧ (f.kind = .request ∨ f.kind = .directive ∧ f.node = 0) ∧ f.node.toNat ≤ 63 ∧
        f.payload.length ≤ 240 ∨
      line = .field ∧ (f.kind = .answer ∨ f.kind = .report ∨ f.kind = .defer ∧
          (f.payload.length = 0 ∨ f.payload.length = 4)) ∧ 1 ≤ f.node.toNat ∧ f.node.toNat ≤ 62 ∧
        f.payload.length ≤ 200) →
    judgeBytes line (frameBytes f) = .good f

/-- Bytes that pass every receive check are exactly the bytes of the one frame read from them, and that frame is one the line
accepts (R1, R2, R3, R5). -/
def Obligations.GoodBytesAreOneFrame : Prop :=
  ∀ (line : Line) (bytes : List Byte) (f : Frame), judgeBytes line bytes = .good f →
    bytes = frameBytes f ∧ bytes.length = 7 + f.payload.length ∧
      (line = .head ∧ (f.kind = .request ∨ f.kind = .directive ∧ f.node = 0) ∧ f.node.toNat ≤ 63 ∧
          f.payload.length ≤ 240 ∨
        line = .field ∧ (f.kind = .answer ∨ f.kind = .report ∨ f.kind = .defer ∧
            (f.payload.length = 0 ∨ f.payload.length = 4)) ∧ 1 ≤ f.node.toNat ∧ f.node.toNat ≤ 62 ∧
          f.payload.length ≤ 200)

/-- MALFORMED_FRAME: bytes that fail a receive check are discarded and counted once, under the first failing check, and
the port's receive state is idle again (R5). That bytes too few to hold a Length are counted as malformed is the model's
deduction (log 7). That an arrival waits for a handing is log 24. -/
def Obligations.BadFrameCounted : Prop :=
  ∀ (s : State) (line : Line) (bytes : List Byte), s.receivingOn line →
    (bytes.length ≠ 7 + byteAt bytes 4 →
      exec (.malformedFrame line bytes) s =
        .next (State.tally (s.setPort line { s.port line with receive := .idle }) (malformedCounter line))) ∧
    (bytes.length = 7 + byteAt bytes 4 →
      bytes.drop (5 + byteAt bytes 4) ≠ checkBytes (bytes.take (5 + byteAt bytes 4)) →
      exec (.malformedFrame line bytes) s =
        .next (State.tally (s.setPort line { s.port line with receive := .idle }) (checkErrorCounter line))) ∧
    (bytes.length = 7 + byteAt bytes 4 →
      bytes.drop (5 + byteAt bytes 4) = checkBytes (bytes.take (5 + byteAt bytes 4)) →
      (∀ f, judgeBytes line bytes ≠ .good f) →
      exec (.malformedFrame line bytes) s =
        .next (State.tally (s.setPort line { s.port line with receive := .idle }) (malformedCounter line)))

/-- HEAD_LINE_UP, FIELD_LINE_UP, HEAD_LINE_DOWN and START_PATTERN_SEEN (R5, R7, R8, R177): 500 ticks of valid signal raise a
line and 2,000 without it lower it; the head line's change to DOWN cuts its frames short and leaves the Delivery List as it
is; a start pattern on an UP line makes an idle port receiving; while a line is DOWN no frame arrives on it and none begins
(R124), but for the frame that arrived before the change (log 25). That each waits for a handing is log 24. -/
def Obligations.LineChanges : Prop :=
  (∀ s : State, s.headPort.up = false → 500 ≤ s.headPort.run → s.noHanding →
    exec .headLineUp s = .next { s with headPort := { s.headPort with up := true, run := 0, receive := .idle } }) ∧
  (∀ s : State, s.fieldPort.up = false → 500 ≤ s.fieldPort.run → s.noHanding →
    exec .fieldLineUp s = .next { s with fieldPort := { s.fieldPort with up := true, run := 0, receive := .idle } }) ∧
  (∀ s : State, s.headPort.up = true → 2000 ≤ s.headPort.run → s.headPort.receive ≠ .receiving → s.noHanding →
    exec .headLineDown s =
      .next { s with headPort := { up := false, run := 0, receive := .idle, tx := none } }) ∧
  (∀ s : State, s.headPort.up = true → 2000 ≤ s.headPort.run → s.headPort.receive = .receiving → s.noHanding →
    exec .headLineDown s =
      .next
        { s with
          headPort := { up := false, run := 0, receive := .idle, tx := none }
          counters := (s.tally .headMalformed).counters }) ∧
  (∀ s : State, s.headPort.up = true → s.headPort.receive = .idle → s.noHanding →
    exec (.startPatternSeen .head) s = .next { s with headPort := { s.headPort with receive := .receiving } }) ∧
  (∀ s : State, s.fieldPort.up = true → s.fieldPort.receive = .idle → s.noHanding →
    exec (.startPatternSeen .field) s = .next { s with fieldPort := { s.fieldPort with receive := .receiving } }) ∧
  ∀ (s : State) (line : Line) (c : Instr), (s.port line).up = false → reaches line c = true →
    (isReply c = true → s.fieldPort.receive ≠ .arrived) → exec c s = .next s

/-- FIELD_LINE_DOWN (R7, R8, R98, R122, R123), in a state that meets the exchange laws: the port is DOWN with its frames cut
short; every ISSUED exchange counts a silence, oldest first, becoming READY within its Silent Limit and LINE LOST beyond it
or as a broadcast; the node follows; QUIET nodes become IDLE; the Receipt Queue is emptied; FIELD LINE LOSS is raised. A frame
being received is cut short and counted or, where its arrival waits behind the change, has arrived and stays to be judged and
handed on (R5, R125; the queue carries the order: log 25). That the change waits for a handing is log 24, and that the conclusion
items stand ahead of the notice of the flag is log 28. -/
def Obligations.FieldLineDown : Prop :=
  ∀ (s : State) (arrived : Bool), s.ExchangeLaw → s.fieldPort.up = true → 2000 ≤ s.fieldPort.run → s.noHanding →
    (arrived = true ↔ s.frameEnds) →
    ∃ t, exec .fieldLineDown s = .next t ∧
      (s.fieldPort.receive = .receiving → arrived = true →
        t.fieldPort = { up := false, run := 0, receive := .arrived, tx := none }) ∧
      (s.fieldPort.receive ≠ .receiving ∨ arrived = false →
        t.fieldPort = { up := false, run := 0, receive := .idle, tx := none }) ∧
      t.inFlight = none ∧ t.receipts = [] ∧
      (∀ i, s.slot i = none → t.slot i = none) ∧
      (∀ i e, s.slot i = some e → e.state ≠ .issued → t.slot i = some e) ∧
      (∀ i e, s.slot i = some e → e.state = .issued → e.node = 63 →
        t.slot i =
          some { e with
            state := .concluded, outcome := some .lineLost, lifetimeArmed := false,
            answerDue := none, reissueDue := none }) ∧
      (∀ i e, s.slot i = some e → e.state = .issued → e.node ≠ 63 → e.snapshot.silentLimit < e.silentCount + 1 →
        t.slot i =
          some { e with
            state := .concluded, silentCount := e.silentCount + 1, outcome := some .lineLost,
            lifetimeArmed := false, answerDue := none, reissueDue := none } ∧
          t.node e.node = { s.node e.node with state := .idle }) ∧
      (∀ i e, s.slot i = some e → e.state = .issued → e.node ≠ 63 → e.silentCount + 1 ≤ e.snapshot.silentLimit →
        t.slot i =
          some { e with
            state := .ready, silentCount := e.silentCount + 1, answerDue := none, reissueDue := none } ∧
          t.node e.node = { s.node e.node with state := .held i }) ∧
      (∀ n q, (s.node n).state = .quiet q → t.node n = { s.node n with state := .idle }) ∧
      (∀ n, (s.node n).state = .idle ∨ (∃ i, (s.node n).state = .held i) → t.node n = s.node n) ∧
      t.pendingOrder =
        ((s.slotsByAge fun e => e.state == .issued).filter fun i => s.readyAtLoss i).foldl
          (fun l i => insertBefore (s.younger (s.sequenceOf i)) i l) s.pendingOrder ∧
      t.delivery =
        s.delivery ++
          ((s.slotsByAge fun e => e.state == .issued).filter fun i => !s.readyAtLoss i).map Item.conclusion ∧
      t.counter (.outcomes .lineLost) =
        s.counter (.outcomes .lineLost) +
          BitVec.ofNat 32 ((s.slotsByAge fun e => e.state == .issued).filter fun i => !s.readyAtLoss i).length ∧
      t.counter .fieldMalformed =
        (if s.fieldPort.receive = .receiving ∧ arrived = false then s.counter .fieldMalformed + 1
          else s.counter .fieldMalformed) ∧
      (∀ c, c ≠ .outcomes .lineLost → c ≠ .fieldMalformed → t.counter c = s.counter c) ∧
      t =
        { s with
          fieldPort := t.fieldPort, inFlight := t.inFlight, receipts := t.receipts, slots := t.slots, nodes := t.nodes,
          pendingOrder := t.pendingOrder, delivery := t.delivery, counters := t.counters,
          flags := (s.raiseFlag .fieldLineLoss).flags, flagEvent := (s.raiseFlag .fieldLineLoss).flagEvent,
          flagsOwed := (s.raiseFlag .fieldLineLoss).flagsOwed }

/-- REQUEST_ARRIVAL and DIRECTIVE_ARRIVAL (R6, R20), no control place being handed (log 24): a good head frame is counted, and
joins the back of the Head Intake while it holds fewer than 4 frames; at 4 it is discarded, counted as an overrun, and HEAD
OVERRUN is raised. -/
def Obligations.HeadFrameArrival : Prop :=
  (∀ (s : State) (node tag function : Byte) (payload : List Byte),
    s.receivingOn .head → node.toNat ≤ 63 → payload.length ≤ 240 →
    (s.intake.length < 4 →
      exec (.requestArrival node tag function payload) s =
        .next
          { s.received .head with
            intake := s.intake ++
              [{ kind := .request, node := node, tag := tag, function := function, payload := payload }] }) ∧
    (4 ≤ s.intake.length →
      exec (.requestArrival node tag function payload) s =
        .next (((s.received .head).tally .headOverrunDiscards).raiseFlag .headOverrun))) ∧
  ∀ (s : State) (number code : Byte) (arguments : List Byte),
    s.receivingOn .head → arguments.length ≤ 240 →
    (s.intake.length < 4 →
      exec (.directiveArrival number code arguments) s =
        .next
          { s.received .head with
            intake := s.intake ++
              [{ kind := .directive, node := 0, tag := number, function := code, payload := arguments }] }) ∧
    (4 ≤ s.intake.length →
      exec (.directiveArrival number code arguments) s =
        .next (((s.received .head).tally .headOverrunDiscards).raiseFlag .headOverrun))

/-! ## Answers, defers and timers -/

/-- ANSWER_ARRIVAL of a matching answer that concludes (R56, R65, R99, R101, R102, R103): the verdict by length, the
record with its answer fields, the delivered bytes, the node IDLE with its latencies, the conclusion item and the counter.
That an arrival waits for a handing is log 24. -/
def Obligations.AnswerConcludes : Prop :=
  ∀ (s : State) (node function : Byte) (payload : List Byte) (i : Slot) (e : Exchange) (completed : Mono)
    (o : OutcomeCode),
    s.receivingOn .field → 1 ≤ node.toNat → node.toNat ≤ 62 → payload.length ≤ 200 →
    s.awaits node.toNat i e completed → e.snapshot.minimum ≤ e.snapshot.maximum →
    (e.snapshot.minimum ≤ payload.length ∧ payload.length ≤ e.snapshot.maximum ∧ o = .answered ∨
      payload.length < e.snapshot.minimum ∧ e.snapshot.shortAction = .deliver ∧ o = .answeredShort ∨
      e.snapshot.maximum < payload.length ∧ e.snapshot.longAction = .deliver ∧ o = .answeredLong ∨
      e.snapshot.maximum < payload.length ∧ e.snapshot.longAction = .truncate ∧ o = .truncated) →
    exec (.answerArrival node (s.node node.toNat).issueNumber function payload) s =
      .next
        { (s.received .field).concludedAs i
            { e with
              answer := some
                { length := payload.length, residue := (payload.length : Int) - (e.snapshot.nominal : Int),
                  time := { cycle := s.cycle, phase := s.phase }, latency := (s.now - completed).toNat },
              truncated := o == .truncated,
              buffer := if o = .truncated then payload.take e.snapshot.maximum else payload }
            o with
          nodes := changeNode s.nodes node.toNat fun x =>
            { x with
              state := .idle, lastLatency := (s.now - completed).toNat,
              maxLatency := max x.maxLatency (s.now - completed).toNat } }

/-- ANSWER_ARRIVAL of a matching answer that the verdict takes as a silence (R65, R102, R104, R108): within the Silent
Limit the exchange is DEFERRED for the base delay and its node HELD; beyond it the exchange concludes NO ANSWER and its
node is IDLE. The node's latencies show the answer in both. That an arrival waits for a handing is log 24. -/
def Obligations.AnswerTakenAsSilence : Prop :=
  ∀ (s : State) (node function : Byte) (payload : List Byte) (i : Slot) (e : Exchange) (completed : Mono),
    s.receivingOn .field → 1 ≤ node.toNat → node.toNat ≤ 62 → payload.length ≤ 200 →
    s.awaits node.toNat i e completed → e.snapshot.minimum ≤ e.snapshot.maximum →
    (payload.length < e.snapshot.minimum ∧ e.snapshot.shortAction = .silence ∨
      e.snapshot.maximum < payload.length ∧ e.snapshot.longAction = .silence) →
    (e.silentCount + 1 ≤ e.snapshot.silentLimit →
      exec (.answerArrival node (s.node node.toNat).issueNumber function payload) s =
        .next
          { s.received .field with
            slots := s.slots.set i
              (some { e with
                state := .deferred, silentCount := e.silentCount + 1, answerDue := none,
                reissueDue := some (s.now + BitVec.ofNat 48 e.snapshot.baseDelay) })
            deferralList :=
              insertBefore (s.dueAfter (s.now + BitVec.ofNat 48 e.snapshot.baseDelay) e.admissionSeq) i s.deferralList
            nodes := changeNode s.nodes node.toNat fun x =>
              { x with
                state := .held i, lastLatency := (s.now - completed).toNat,
                maxLatency := max x.maxLatency (s.now - completed).toNat } }) ∧
    (e.snapshot.silentLimit < e.silentCount + 1 →
      exec (.answerArrival node (s.node node.toNat).issueNumber function payload) s =
        .next
          { (s.received .field).concludedAs i { e with silentCount := e.silentCount + 1 } .noAnswer with
            nodes := changeNode s.nodes node.toNat fun x =>
              { x with
                state := .idle, lastLatency := (s.now - completed).toNat,
                maxLatency := max x.maxLatency (s.now - completed).toNat } })

/-- ANSWER_ARRIVAL and DEFER_ARRIVAL of a frame that matches no open answer window (R97, R99, R100): a stale frame is counted
and changes nothing else; a late frame is counted and ends the QUIET of its node. The frame may be handed on as it arrives or,
where it arrived as the field line went DOWN, after that change and whatever place is being handed (R125; log 25). That any other
arrival waits for a handing is log 24. -/
def Obligations.StaleAndLateFrames : Prop :=
  ∀ (s : State) (node tag function : Byte) (payload : List Byte),
    s.receivingReply → 1 ≤ node.toNat → node.toNat ≤ 62 →
    ((s.node node.toNat).state = .idle ∨ (∃ i, (s.node node.toNat).state = .held i) ∨
        tag ≠ (s.node node.toNat).issueNumber ∨
        (∃ i e, (s.node node.toNat).state = .occupied i ∧ s.slot i = some e ∧ e.answerDue = none) →
      (payload.length ≤ 200 →
        exec (.answerArrival node tag function payload) s = .next ((s.received .field).tally .staleAnswers)) ∧
      (payload.length = 0 ∨ payload.length = 4 →
        exec (.deferArrival node tag function payload) s = .next ((s.received .field).tally .staleAnswers))) ∧
    ((∃ q, (s.node node.toNat).state = .quiet q) → tag = (s.node node.toNat).issueNumber →
      (payload.length ≤ 200 →
        exec (.answerArrival node tag function payload) s =
          .next
            { s.received .field with
              nodes := changeNode s.nodes node.toNat fun x => { x with state := .idle }
              counters := ((s.received .field).tally .lateAnswers).counters }) ∧
      (payload.length = 0 ∨ payload.length = 4 →
        exec (.deferArrival node tag function payload) s =
          .next
            { s.received .field with
              nodes := changeNode s.nodes node.toNat fun x => { x with state := .idle }
              counters := ((s.received .field).tally .lateAnswers).counters }))

/-- DEFER_ARRIVAL of a matching DEFER (R99, R105): within the Defer Limit the exchange is DEFERRED for the delay of R106,
which ReissueDelay states, and its node HELD; beyond it the exchange concludes DEFER LIMIT and its node is IDLE. That an
arrival waits for a handing is log 24. -/
def Obligations.DeferTaken : Prop :=
  ∀ (s : State) (node function : Byte) (payload : List Byte) (i : Slot) (e : Exchange) (completed : Mono)
    (hint : Option Nat),
    s.receivingOn .field → 1 ≤ node.toNat → node.toNat ≤ 62 →
    (payload = [] ∧ hint = none ∨ payload.length = 4 ∧ hint = some (beNat payload)) →
    s.awaits node.toNat i e completed →
    (e.deferCount + 1 ≤ e.snapshot.deferLimit →
      exec (.deferArrival node (s.node node.toNat).issueNumber function payload) s =
        .next
          { s.received .field with
            slots := s.slots.set i
              (some { e with
                state := .deferred, deferCount := e.deferCount + 1, answerDue := none,
                reissueDue :=
                  some (s.now + BitVec.ofNat 48 (reissueDelay e.snapshot (e.deferCount + 1) hint)) })
            deferralList :=
              insertBefore
                (s.dueAfter (s.now + BitVec.ofNat 48 (reissueDelay e.snapshot (e.deferCount + 1) hint))
                  e.admissionSeq)
                i s.deferralList
            nodes := changeNode s.nodes node.toNat fun x => { x with state := .held i } }) ∧
    (e.snapshot.deferLimit < e.deferCount + 1 →
      exec (.deferArrival node (s.node node.toNat).issueNumber function payload) s =
        .next
          { (s.received .field).concludedAs i { e with deferCount := e.deferCount + 1 } .deferLimit with
            nodes := changeNode s.nodes node.toNat fun x => { x with state := .idle } })

/-- The delay before a reissue (R106): the computed delay by the count d and the Backoff, the hint weighed against it, the
bounds of the result, and the rule's three examples. -/
def Obligations.ReissueDelay : Prop :=
  (∀ p : Policy, p.backoff = .flat → ∀ d, 1 ≤ d → computedDelay p d = p.baseDelay) ∧
  (∀ p : Policy, p.backoff = .doubling →
    computedDelay p 1 = p.baseDelay ∧ computedDelay p 2 = 2 * p.baseDelay ∧ computedDelay p 3 = 4 * p.baseDelay ∧
    computedDelay p 4 = 8 * p.baseDelay ∧ ∀ d, 5 ≤ d → computedDelay p d = 16 * p.baseDelay) ∧
  (∀ (p : Policy) (d : Nat), reissueDelay p d none = computedDelay p d) ∧
  (∀ (p : Policy) (d hint : Nat), hint ≤ computedDelay p d → reissueDelay p d (some hint) = computedDelay p d) ∧
  (∀ (p : Policy) (d hint : Nat), computedDelay p d < hint →
    reissueDelay p d (some hint) = min hint (16 * p.baseDelay)) ∧
  (∀ (p : Policy) (d : Nat) (hint : Option Nat), 1 ≤ d →
    p.baseDelay ≤ reissueDelay p d hint ∧ reissueDelay p d hint ≤ 16 * p.baseDelay ∧
      (p.baseDelay ≤ 1000000 → reissueDelay p d hint ≤ 16000000)) ∧
  (∀ (p : Policy) (d : Nat), reissueDelay p d (some 0) = computedDelay p d) ∧
  ∀ p : Policy, p.baseDelay = 1000 →
    (p.backoff = .doubling → reissueDelay p 2 (some 1500) = 2000 ∧ reissueDelay p 2 (some 5000) = 5000) ∧
    (p.backoff = .flat → reissueDelay p 1 (some 30000) = 16000)

/-- ANSWER_WINDOW_EXPIRY (R108): an answer-due reached counts a silence. Within the Silent Limit the exchange is DEFERRED for
the base delay and its node HELD; beyond it the exchange concludes NO ANSWER and its node is IDLE. That it waits for
a handing is log 24. -/
def Obligations.AnswerWindowExpiry : Prop :=
  ∀ (s : State) (i : Slot) (e : Exchange) (due : Mono),
    s.slot i = some e → e.state = .issued → e.answerDue = some due → reached s.now due = true → s.noHanding →
    (e.silentCount + 1 ≤ e.snapshot.silentLimit →
      exec (.answerWindowExpiry i) s =
        .next
          { s with
            slots := s.slots.set i
              (some { e with
                state := .deferred, silentCount := e.silentCount + 1, answerDue := none,
                reissueDue := some (s.now + BitVec.ofNat 48 e.snapshot.baseDelay) })
            deferralList :=
              insertBefore (s.dueAfter (s.now + BitVec.ofNat 48 e.snapshot.baseDelay) e.admissionSeq) i s.deferralList
            nodes := changeNode s.nodes e.node fun x => { x with state := .held i } }) ∧
    (e.snapshot.silentLimit < e.silentCount + 1 →
      exec (.answerWindowExpiry i) s =
        .next
          { s.concludedAs i { e with silentCount := e.silentCount + 1 } .noAnswer with
            nodes := changeNode s.nodes e.node fun x => { x with state := .idle } })

/-- REISSUE_DUE (R59, R107): a reissue-due reached makes the exchange READY, at the place of its admission sequence in the
pending order. QUIET_UNTIL_REACHED (R64, R97): a quiet-until reached makes the node IDLE. That each waits for a handing is
log 24. -/
def Obligations.ReissueDueAndQuietUntil : Prop :=
  (∀ (s : State) (i : Slot) (e : Exchange) (due : Mono),
    s.slot i = some e → e.state = .deferred → e.reissueDue = some due → reached s.now due = true → s.noHanding →
    exec (.reissueDue i) s =
      .next
        { s with
          slots := s.slots.set i (some { e with state := .ready, answerDue := none, reissueDue := none })
          deferralList := s.deferralList.filter (· != i)
          pendingOrder := insertBefore (s.younger e.admissionSeq) i s.pendingOrder }) ∧
  ∀ (s : State) (n : Nat) (until? : Mono), 1 ≤ n → n ≤ 62 →
    (s.node n).state = .quiet (some until?) → reached s.now until? = true → s.noHanding →
    exec (.quietUntilReached n) s =
      .next { s with nodes := changeNode s.nodes n fun x => { x with state := .idle } }

/-- LIFETIME_END (R57, R64, R96, R110), by the state the exchange holds: EXPIRED from WAITING with its node untouched, from
ISSUED with its node QUIET until the answer-due, from DEFERRED or READY with its node IDLE; a broadcast in transmission only
loses its timer. That it waits for a handing is log 24. -/
def Obligations.LifetimeEnd : Prop :=
  ∀ (s : State) (i : Slot) (e : Exchange),
    s.slot i = some e → e.lifetimeArmed = true → reached s.now e.lifetimeEnd = true → s.noHanding →
    (e.state = .waiting →
      exec (.lifetimeEnd i) s = .next (s.concludedAs i e .expired)) ∧
    (e.state = .issued → e.node ≠ 63 →
      exec (.lifetimeEnd i) s =
        .next
          { s.concludedAs i e .expired with
            nodes := changeNode s.nodes e.node fun x => { x with state := .quiet e.answerDue } }) ∧
    (e.state = .issued → e.node = 63 →
      exec (.lifetimeEnd i) s =
        .next { s with slots := s.slots.set i (some { e with lifetimeArmed := false }) }) ∧
    (e.state = .deferred ∨ e.state = .ready →
      exec (.lifetimeEnd i) s =
        .next
          { s.concludedAs i e .expired with
            nodes := changeNode s.nodes e.node fun x => { x with state := .idle } })

/-! ## The field transmit arbiter -/

/-- Eligibility at a choice (R87, R88): READY always; WAITING when the exchange's own node is IDLE or, for a broadcast, no node
is OCCUPIED or QUIET, and no WAITING broadcast was admitted before it; in every other state never. -/
def Obligations.Eligibility : Prop :=
  ∀ (s : State) (e : Exchange),
    s.eligible e = true ↔
      e.state = .ready ∨
      e.state = .waiting ∧
        (e.node ≠ 63 → (s.node e.node).state = .idle) ∧
        (e.node = 63 → ∀ n, 1 ≤ n → n ≤ 62 →
          (s.node n).state = .idle ∨ ∃ i, (s.node n).state = .held i) ∧
        ∀ j b, s.slot j = some b → b.state = .waiting → b.node = 63 →
          ¬ (1 ≤ (e.admissionSeq - b.admissionSeq).toNat ∧ (e.admissionSeq - b.admissionSeq).toNat < 2 ^ 31)

/-- The arbiter's choice (R85, R86, R89, R90): none while the line is DOWN or the port busy; the oldest receipt first; with no
receipt, the oldest eligible exchange of the origin that the consecutive-schedule count and the Acyclic Share select. What falls
together gives one choice (log 23): it starts once no event due now would make an exchange eligible, be it the firing that the
advance held for a SYNC edge reaches, no REQUEST is left to be taken and no entry to fire, the ends of QUIET and of WAITING
broadcasts due now would not together, no node's frame whose arrival waits before the next tick is still to be taken (but a REPORT
that finds the Receipt Queue full), and no REQUEST that so waits would be eligible; the chosen exchange's own lifetime end may
come after it (R92, R96, R114), and no control place is being handed (R174; log 24). It does start when no such event, arrival or
head transmit completion is left. -/
def Obligations.ArbiterChoice : Prop :=
  ∀ s : State,
    (s.fieldPort.up = false ∨ s.fieldPort.tx ≠ none → s.fieldChoice = none) ∧
    (s.fieldPort.up = true → s.fieldPort.tx = none →
      (∀ r rest, s.receipts = r :: rest → s.fieldChoice = some (.receipt r)) ∧
      (s.receipts = [] →
        (∀ a b, s.oldestCandidate true a → s.oldestCandidate false b →
          (s.scheduleRun < s.params.acyclicShare → s.fieldChoice = some (.exchange a)) ∧
          (s.params.acyclicShare ≤ s.scheduleRun → s.fieldChoice = some (.exchange b))) ∧
        (∀ a, s.oldestCandidate true a → (∀ j ∈ s.pendingOrder, ¬ s.candidate false j) →
          s.fieldChoice = some (.exchange a)) ∧
        (∀ b, s.oldestCandidate false b → (∀ j ∈ s.pendingOrder, ¬ s.candidate true j) →
          s.fieldChoice = some (.exchange b)) ∧
        ((∀ j ∈ s.pendingOrder, ¬ s.candidate true j ∧ ¬ s.candidate false j) → s.fieldChoice = none))) ∧
    (∀ c, s.fieldStart = some c →
      s.fieldChoice = some c ∧ s.noHanding ∧
        ∀ event t, mayEnable event = true → (∀ i, event = .lifetimeEnd i → c ≠ .exchange i) →
          exec event s = .next t →
          ∀ j f, t.slot j = some f → t.eligible f = true → ∃ e, s.slot j = some e ∧ s.eligible e = true) ∧
    (∀ c, s.fieldStart = some c → exec .takeRequest s = .next s ∧ ∀ k, exec (.scheduleFiring k) s = .next s) ∧
    (∀ c k u v t, s.fieldStart = some c → exec .syncEdge s = .next u → exec .cycleStart u = .next v →
      exec (.scheduleFiring k) v = .next t →
      ∀ j f, t.slot j = some f → t.eligible f = true → ∃ e, s.slot j = some e ∧ s.eligible e = true) ∧
    (∀ c x, s.fieldStart = some c → s.comes x →
      isReply x = false ∧ (isReport x = true → 8 ≤ s.receipts.length) ∧
        ∀ node tag function payload p, x = .requestArrival node tag function payload →
          s.eligible (s.newExchange (.head tag) node.toNat function payload p) = false) ∧
    (∀ c i e, s.fieldStart = some c → s.slot i = some e → e.state = .waiting →
      (∀ j b, s.slot j = some b → b.state = .waiting → b.node = 63 →
        1 ≤ (e.admissionSeq - b.admissionSeq).toNat → (e.admissionSeq - b.admissionSeq).toNat < 2 ^ 31 →
        c ≠ .exchange j ∧ b.lifetimeArmed = true ∧ reached s.now b.lifetimeEnd = true) →
      (e.node ≠ 63 →
        (s.node e.node).state = .idle ∨ ∃ q, (s.node e.node).state = .quiet (some q) ∧ reached s.now q = true) →
      (e.node = 63 → ∀ n, 1 ≤ n → n ≤ 62 →
        (s.node n).state = .idle ∨ (∃ j, (s.node n).state = .held j) ∨
          ∃ q, (s.node n).state = .quiet (some q) ∧ reached s.now q = true) →
      s.eligible e = true) ∧
    ∀ c, s.fieldChoice = some c → s.noHanding → (∀ x, s.comes x → isArrival x = false) → ¬ s.headSent →
      (∀ event, mayEnable event = true → (∀ i, event = .lifetimeEnd i → c ≠ .exchange i) → exec event s = .next s) →
      s.fieldStart = some c

/-- ISSUE_SELECTION and BROADCAST_SELECTION (R8, R62, R84, R89, R91, R96): the chosen exchange becomes ISSUED and leaves the
pending order, its issue count and the consecutive-schedule count change, and its ISSUE starts, to complete after 4 × (B + 2)
ticks. A field node becomes OCCUPIED and its issue number rises into the Tag; a broadcast changes no node. ArbiterChoice states
when an exchange is the one that starts. -/
def Obligations.Selections : Prop :=
  ∀ (s : State) (i : Slot) (e : Exchange) (run : Nat),
    s.fieldStart = some (.exchange i) → s.slot i = some e →
    (∀ tag, e.origin = .head tag → run = 0) →
    (∀ k, e.origin = .schedule k → (∃ j ∈ s.pendingOrder, s.candidate false j) → run = s.scheduleRun + 1) →
    (∀ k, e.origin = .schedule k → (∀ j ∈ s.pendingOrder, ¬ s.candidate false j) → run = s.scheduleRun) →
    (e.node ≠ 63 →
      exec .issueSelection s =
        .next
          { s with
            slots := s.slots.set i
              (some { e with state := .issued, answerDue := none, issueCount := e.issueCount + 1 })
            pendingOrder := s.pendingOrder.filter (· != i)
            scheduleRun := run
            nodes := changeNode s.nodes e.node fun x =>
              { x with issueNumber := x.issueNumber + 1, state := .occupied i }
            fieldPort :=
              { s.fieldPort with
                tx := some
                  { bytes := frameBytes
                      { kind := .issue, node := byte e.node, tag := (s.node e.node).issueNumber + 1,
                        function := e.function, payload := e.buffer },
                    completes := s.now + BitVec.ofNat 48 (4 * (7 + e.buffer.length + 2)) } }
            inFlight := some (.issue i e.node ((s.node e.node).issueNumber + 1) e.snapshot.answerWindow)
            counters := (s.tally .issuesSent).counters }) ∧
    (e.node = 63 →
      exec .broadcastSelection s =
        .next
          { s with
            slots := s.slots.set i
              (some { e with state := .issued, answerDue := none, issueCount := e.issueCount + 1 })
            pendingOrder := s.pendingOrder.filter (· != i)
            scheduleRun := run
            fieldPort :=
              { s.fieldPort with
                tx := some
                  { bytes := frameBytes
                      { kind := .issue, node := 63, tag := 0, function := e.function, payload := e.buffer },
                    completes := s.now + BitVec.ofNat 48 (4 * (7 + e.buffer.length + 2)) } }
            inFlight := some (.issue i 63 0 e.snapshot.answerWindow)
            counters := (s.tally .issuesSent).counters })

/-- RECEIPT_TRANSMIT_START and RECEIPT_TRANSMIT_COMPLETION (R8, R84, R86): the oldest receipt, when it is what starts
(ArbiterChoice), leaves the queue and is sent in 36 ticks; at its completion the frame in flight leaves and the port is
idle. That the completion waits for a handing is log 24. -/
def Obligations.ReceiptTransmission : Prop :=
  (∀ (s : State) (r : Receipt) (rest : List Receipt),
    s.fieldStart = some (.receipt r) → s.receipts = r :: rest →
    exec .receiptTransmitStart s =
      .next
        { s with
          receipts := rest
          fieldPort :=
            { s.fieldPort with
              tx := some
                { bytes := frameBytes
                    { kind := .receipt, node := byte r.node, tag := r.sequence, function := byte (receiptCode r.kind),
                      payload := [] },
                  completes := s.now + BitVec.ofNat 48 36 } }
          inFlight := some (.receipt r)
          counters := (s.tally .receiptsSent).counters }) ∧
  ∀ (s : State) (r : Receipt), s.inFlight = some (.receipt r) → s.fieldSent → s.noHanding →
    exec .receiptTransmitCompletion s =
      .next { s with fieldPort := { s.fieldPort with tx := none }, inFlight := none }

/-- ISSUE_TRANSMIT_COMPLETION (R94, R95): the answer window of an OCCUPIED node's exchange opens and its first issue keeps the
segment time of the first completion; a QUIET node without an end gets its quiet-until from the frame in flight; any other
node is left as it is. BROADCAST_TRANSMIT_COMPLETION (R96): the broadcast concludes SENT. That each waits for
a handing is log 24. -/
def Obligations.IssueCompletions : Prop :=
  (∀ (s : State) (i : Slot) (n : Nat) (number : Byte) (window : Nat),
    s.inFlight = some (.issue i n number window) → n ≠ 63 → s.fieldSent → s.noHanding →
    (∀ j e, (s.node n).state = .occupied j → s.slot j = some e →
      exec .issueTransmitCompletion s =
        .next
          { s with
            slots := s.slots.set j
              (some { e with
                lastCompletion := some s.now,
                firstIssue := some (e.firstIssue.getD { cycle := s.cycle, phase := s.phase }),
                answerDue := some (s.now + BitVec.ofNat 48 e.snapshot.answerWindow) })
            fieldPort := { s.fieldPort with tx := none }
            inFlight := none }) ∧
    ((s.node n).state = .quiet none →
      exec .issueTransmitCompletion s =
        .next
          { s with
            nodes := changeNode s.nodes n fun x =>
              { x with state := .quiet (some (s.now + BitVec.ofNat 48 window)) }
            fieldPort := { s.fieldPort with tx := none }
            inFlight := none }) ∧
    ((s.node n).state = .idle ∨ (∃ q, (s.node n).state = .quiet (some q)) ∨ (∃ j, (s.node n).state = .held j) →
      exec .issueTransmitCompletion s =
        .next { s with fieldPort := { s.fieldPort with tx := none }, inFlight := none })) ∧
  ∀ (s : State) (i : Slot) (number : Byte) (window : Nat) (e : Exchange),
    s.inFlight = some (.issue i 63 number window) → s.fieldSent → s.slot i = some e → e.state = .issued →
    e.node = 63 → s.noHanding →
    exec .broadcastTransmitCompletion s =
      .next
        { s.concludedAs i
            { e with
              lastCompletion := some s.now,
              firstIssue := some (e.firstIssue.getD { cycle := s.cycle, phase := s.phase }) }
            .sent with
          fieldPort := { s.fieldPort with tx := none }
          inFlight := none }

/-! ## Reports and grants -/

/-- REPORT_ARRIVAL of a repeat, or of a report at a full store (R133, R135, R136): counted, its receipt owed, STORE FULL
raised for the refused one, and nothing else changed. That an arrival waits for a handing is log 24. -/
def Obligations.ReportRepeatedOrRefused : Prop :=
  ∀ (s : State) (node sequence function : Byte) (payload : List Byte),
    s.receivingOn .field → 1 ≤ node.toNat → node.toNat ≤ 62 → payload.length ≤ 200 →
    ((s.node node.toNat).lastSequence = some sequence →
      exec (.reportArrival node sequence function payload) s =
        .next
          (((s.received .field).tally .reportsRepeated).receiptOwed
            { node := node.toNat, sequence := sequence, kind := .repeated })) ∧
    ((s.node node.toNat).lastSequence ≠ some sequence → (∀ k, s.stored k ≠ none) →
      exec (.reportArrival node sequence function payload) s =
        .next
          ((((s.received .field).tally .reportsRefused).raiseFlag .storeFull).receiptOwed
            { node := node.toNat, sequence := sequence, kind := .refused }))

/-- REPORT_ARRIVAL of a report taken into the lowest FREE entry (R130, R132, R134, R136, R141): RELEASED with a report
item while its node has credit, and otherwise PARKED last in its node's park order, a notice becoming OWED where none was.
That an arrival waits for a handing is log 24. -/
def Obligations.ReportTaken : Prop :=
  ∀ (s : State) (node sequence function : Byte) (payload : List Byte) (k : StoreIndex),
    s.receivingOn .field → 1 ≤ node.toNat → node.toNat ≤ 62 → payload.length ≤ 200 →
    (s.node node.toNat).lastSequence ≠ some sequence →
    s.stored k = none → (∀ j, j < k → s.stored j ≠ none) →
    (0 < (s.node node.toNat).credit →
      exec (.reportArrival node sequence function payload) s =
        .next
          ((State.tally
            { s.received .field with
              store := s.store.set k
                (some
                  { released := true, node := node.toNat, sequence := sequence, function := function,
                    arrival := { cycle := s.cycle, phase := s.phase }, payload := payload })
              delivery := s.delivery ++ [.report k]
              nodes := changeNode s.nodes node.toNat fun x =>
                { x with lastSequence := some sequence, credit := x.credit - 1 } }
            .reportsAccepted).receiptOwed { node := node.toNat, sequence := sequence, kind := .accepted })) ∧
    ((s.node node.toNat).credit = 0 →
      ∀ owed : List Nat,
        ((s.node node.toNat).notice ≠ .none → owed = s.owedOrder) →
        ((s.node node.toNat).notice = .none → node.toNat ∉ s.owedOrder → owed = s.owedOrder ++ [node.toNat]) →
        ((s.node node.toNat).notice = .none → node.toNat ∈ s.owedOrder → owed = s.owedOrder) →
        exec (.reportArrival node sequence function payload) s =
          .next
            ((State.tally
              { s.received .field with
                store := s.store.set k
                  (some
                    { released := false, node := node.toNat, sequence := sequence, function := function,
                      arrival := { cycle := s.cycle, phase := s.phase }, payload := payload })
                owedOrder := owed
                nodes := changeNode s.nodes node.toNat fun x =>
                  { x with
                    lastSequence := some sequence, parkOrder := x.parkOrder ++ [k],
                    notice := if x.notice = .none then .owed else x.notice } }
              .reportsHeld).receiptOwed { node := node.toNat, sequence := sequence, kind := .held }))

/-- POST_GRANT (R138): the credit rises by k up to 15, the oldest PARKED reports are released against it in park order, the
notice state and the owed-notice order follow what is left, and the ACKNOWLEDGE stands behind the released items. -/
def Obligations.PostGrant : Prop :=
  ∀ (s : State) (d : Frame) (node k : Byte) (credit : Nat) (released left : List StoreIndex),
    s.directiveFirst d 0x18 → d.payload = [node, k] → 1 ≤ node.toNat → node.toNat ≤ 62 → 1 ≤ k.toNat → k.toNat ≤ 15 →
    credit = min 15 ((s.node node.toNat).credit + k.toNat) →
    released = (s.node node.toNat).parkOrder.take credit → left = (s.node node.toNat).parkOrder.drop credit →
    ∃ t, exec .postGrant s = .next t ∧
      (∀ j ∈ released, t.stored j = (s.stored j).map fun r => { r with released := true }) ∧
      (∀ j, j ∉ released → t.stored j = s.stored j) ∧
      t.node node.toNat =
        { s.node node.toNat with
          credit := credit - released.length, parkOrder := left, notice := if left = [] then .none else .owed } ∧
      (∀ n, n ≠ node.toNat → t.node n = s.node n) ∧
      (left = [] → t.owedOrder = s.owedOrder.filter (· != node.toNat)) ∧
      (left ≠ [] → node.toNat ∈ s.owedOrder → t.owedOrder = s.owedOrder) ∧
      (left ≠ [] → node.toNat ∉ s.owedOrder → t.owedOrder = s.owedOrder ++ [node.toNat]) ∧
      t =
        State.acknowledged
          { s with
            store := t.store, nodes := t.nodes, owedOrder := t.owedOrder,
            delivery := s.delivery ++ released.map Item.report }
          d (if 15 < (s.node node.toNat).credit + k.toNat then .saturated else .done)
          [byte released.length, byte (credit - released.length)]

/-- WITHDRAW_GRANT (R139): the node's credit becomes 0, and the result is the credit removed. DISCARD_PARKED (R140): the node's
PARKED entries become FREE, its park order is empty, its notice state NONE, and the result counts the entries freed. -/
def Obligations.WithdrawGrantAndDiscardParked : Prop :=
  (∀ (s : State) (d : Frame) (node : Byte),
    s.directiveFirst d 0x19 → d.payload = [node] → 1 ≤ node.toNat → node.toNat ≤ 62 →
    exec .withdrawGrant s =
      .next
        (State.acknowledged { s with nodes := changeNode s.nodes node.toNat fun x => { x with credit := 0 } } d .done
          [byte (s.node node.toNat).credit])) ∧
  ∀ (s : State) (d : Frame) (node : Byte),
    s.directiveFirst d 0x1A → d.payload = [node] → 1 ≤ node.toNat → node.toNat ≤ 62 →
    ∃ t, exec .discardParked s = .next t ∧
      (∀ j ∈ (s.node node.toNat).parkOrder, t.stored j = none) ∧
      (∀ j, j ∉ (s.node node.toNat).parkOrder → t.stored j = s.stored j) ∧
      t =
        State.acknowledged
          { s with
            store := t.store
            nodes := changeNode s.nodes node.toNat fun x => { x with parkOrder := [], notice := .none }
            owedOrder := s.owedOrder.filter (· != node.toNat) }
          d .done [byte (s.node node.toNat).parkOrder.length]

/-! ## Delivery to the controller -/

/-- HEAD_TRANSMIT_START (R4, R8, R10, R12, R175): the frame of the first item is built, an OUTCOME, a REPORT DELIVERY or the
control record held, and its transmission starts, to complete after 4 × (B + 2) ticks. The item stays first.
That the start waits for a handing is log 24. -/
def Obligations.HeadTransmitStart : Prop :=
  ∀ (s : State) (item : Item) (rest : List Item) (f : Frame),
    s.headPort.up = true → s.headPort.tx = none → s.delivery = item :: rest → s.noHanding →
    ((∃ i e, item = .conclusion i ∧ s.slot i = some e ∧
        f =
          { kind := .outcome, node := byte e.node, tag := originTag e.origin, function := e.function,
            payload := outcomeRecord i e ++ if e.answer.isSome then e.buffer else [] }) ∨
      (∃ k r, item = .report k ∧ s.stored k = some r ∧
        f =
          { kind := .reportDelivery, node := byte r.node, tag := r.sequence, function := r.function,
            payload := beBytes 2 r.arrival.cycle.toNat ++ beBytes 3 r.arrival.phase ++ byte k.val :: r.payload }) ∨
      item = .control f) →
    exec .headTransmitStart s =
      .next
        { s with
          headPort :=
            { s.headPort with
              tx := some
                { bytes := frameBytes f, completes := s.now + BitVec.ofNat 48 (4 * (7 + f.payload.length + 2)) } } }

/-- OUTCOME_TRANSMIT_COMPLETION, REPORT_DELIVERY_COMPLETION and CONTROL_TRANSMIT_COMPLETION (R61, R143, R169, R176): the first
item leaves the list, the port is idle, and what the item referenced is released: the slot with its schedule entry's
reference, the store entry, or the control place alone. That each waits for a handing is log 24. -/
def Obligations.HeadCompletions : Prop :=
  (∀ (s : State) (i : Slot) (rest : List Item) (e : Exchange),
    s.delivery = .conclusion i :: rest → s.headSent → s.slot i = some e → s.noHanding →
    ((∃ tag, e.origin = .head tag) ∨ (∃ k, e.origin = .schedule k ∧ (s.entry k).openSlot ≠ some i) →
      exec .outcomeTransmitCompletion s =
        .next
          { s with
            delivery := rest, headPort := { s.headPort with tx := none }, slots := s.slots.set i none }) ∧
    (∀ k, e.origin = .schedule k → (s.entry k).openSlot = some i →
      exec .outcomeTransmitCompletion s =
        .next
          { s with
            delivery := rest, headPort := { s.headPort with tx := none }, slots := s.slots.set i none,
            schedule := s.schedule.set k { s.entry k with openSlot := none } })) ∧
  (∀ (s : State) (k : StoreIndex) (rest : List Item), s.delivery = .report k :: rest → s.headSent → s.noHanding →
    exec .reportDeliveryCompletion s =
      .next
        { s with delivery := rest, headPort := { s.headPort with tx := none }, store := s.store.set k none }) ∧
  ∀ (s : State) (f : Frame) (rest : List Item), s.delivery = .control f :: rest → s.headSent → s.noHanding →
    exec .controlTransmitCompletion s =
      .next { s with delivery := rest, headPort := { s.headPort with tx := none } }

/-- FLAGS_RAISED_NOTICE_PLACED and GRANT_WANTED_NOTICE_PLACED (R11, R34, R141, R142, R174): with a control place free and no
claim above it, the notice joins the Delivery List with its content fixed, and is owed no more. Handing and placing are one event
with the freeing or the claim: while a place is being handed, no command but RESET, a directive, a notice and the taking of a
refused REQUEST has any effect (log 24), but for the ANSWER or DEFER that arrived as the field line went DOWN (log 25). -/
def Obligations.NoticesPlaced : Prop :=
  (∀ (s : State) (b : Byte), s.controlUsed < 8 → s.noIntakeClaim → s.flagsOwed = true →
    (∀ f, b.getLsbD (flagNumber f) = (s.flag f).raised) → b.getLsbD 6 = false → b.getLsbD 7 = false →
    exec .flagsRaisedNoticePlaced s =
      .next
        { s with
          flagsOwed := false
          delivery := s.delivery ++
            [.control { kind := .notice, node := 0, tag := 0, function := 2, payload := [b] }] }) ∧
  (∀ (s : State) (n : Nat) (rest : List Nat), s.controlUsed < 8 → s.noIntakeClaim → s.flagsOwed = false →
    s.owedOrder = n :: rest →
    exec .grantWantedNoticePlaced s =
      .next
        { s with
          owedOrder := rest
          nodes := changeNode s.nodes n fun x => { x with notice := .sent }
          delivery := s.delivery ++
            [.control
              { kind := .notice, node := byte n, tag := 0, function := 1,
                payload := [byte (s.node n).parkOrder.length] }] }) ∧
  ∀ s : State, ¬ s.noHanding →
    (∀ c, waitsForHanding c = true → (isReply c = true → s.fieldPort.receive ≠ .arrived) → exec c s = .next s) ∧
      (s.noIntakeClaim → exec .takeRequest s = .next s)

/-! ## The clocks and the Cycle Schedule -/

/-- TICK (R7, R147, R149, R151, R159), when nothing of the present tick is left to be taken (log 3): the monotonic count rises,
both run counts count, the SYNC qualifier samples and qualifies a change at SYNC Filter samples (log 14), and the phase
rises by 1 unless that would reach the cycle length or a SYNC edge due at this tick goes first (logs 4, 5); then the advance
is held. -/
def Obligations.Tick : Prop :=
  ∀ (s : State) (sync headSignal fieldSignal edgeFirst : Bool), s.settled = true →
    ∃ t, exec (.tick sync headSignal fieldSignal edgeFirst) s = .next t ∧
      t.now = s.now + 1 ∧
      t.headPort = { s.headPort with run := if headSignal = s.headPort.up then 0 else s.headPort.run + 1 } ∧
      t.fieldPort = { s.fieldPort with run := if fieldSignal = s.fieldPort.up then 0 else s.fieldPort.run + 1 } ∧
      t.sampled = true ∧
      (s.sampled = false → t.qualifiedLevel = sync ∧ t.syncRun = 0) ∧
      (s.sampled = true → t.qualifiedLevel = s.qualifiedLevel ∧
        t.syncRun = if sync = s.qualifiedLevel then 0 else s.syncRun + 1) ∧
      (s.sampled = true → sync ≠ s.qualifiedLevel → s.params.syncFilter ≤ s.syncRun + 1 →
        t.levelChange =
          some (if s.params.syncPolarity = .rising ↔ s.qualifiedLevel = false then .edge else .against)) ∧
      (s.sampled = false ∨ sync = s.qualifiedLevel ∨ s.syncRun + 1 < s.params.syncFilter → t.levelChange = none) ∧
      (s.params.cycleLength ≤ s.phase + 1 ∨ edgeFirst = true ∧ t.levelChange = some .edge →
        t.phase = s.phase ∧ t.advanceHeld = true) ∧
      (s.phase + 1 < s.params.cycleLength →
        ¬ (edgeFirst = true ∧ t.levelChange = some .edge) →
        t.phase = s.phase + 1 ∧ t.advanceHeld = false) ∧
      t =
        { s with
          now := t.now, headPort := t.headPort, fieldPort := t.fieldPort, sampled := t.sampled,
          qualifiedLevel := t.qualifiedLevel, syncRun := t.syncRun, levelChange := t.levelChange,
          phase := t.phase, advanceHeld := t.advanceHeld }

/-- What holds the tick back (R21, R57, R85, R147, R174, R175; the model's choice, log 3): in a settled state no event that
comes about by itself has anything to do, and in any other state the tick is turned away. -/
def Obligations.SettledLeavesNothingToTake : Prop :=
  (∀ (s : State) (c : Instr), s.settled = true → ofItself c = true → exec c s = .next s) ∧
  ∀ (s : State) (sync headSignal fieldSignal edgeFirst : Bool), s.settled = false →
    exec (.tick sync headSignal fieldSignal edgeFirst) s = .next s

/-- CYCLE_START (R149, R150, R156, R159, R167): the tick whose advance would reach the cycle length begins a cycle instead, a wrap
in FREE mode and a flywheel start in SYNCED mode, with the clock's steps, the schedule's steps 1 to 6 and the firings of phase
0 in index order; any other advance that the tick has held for a SYNC edge raises the phase by 1. That TICK holds the advance and
CYCLE_START, a command of its own, makes it, is the model's split of the tick (log 5); that it waits for a handing is log 24. -/
def Obligations.CycleStart : Prop :=
  (∀ s : State, s.advanceHeld = true → s.phase + 1 < s.params.cycleLength → s.noHanding →
    exec .cycleStart s = .next { s with phase := s.phase + 1, advanceHeld := false }) ∧
  ∀ s : State, s.advanceHeld = true → s.params.cycleLength ≤ s.phase + 1 → s.noHanding →
    (s.params.clockMode = .free →
      ∃ u, State.CycleBegun { s with advanceHeld := false } .wrap u ∧ exec .cycleStart s = .next u.phaseZeroFirings) ∧
    (s.params.clockMode = .synced →
      ∃ u, State.CycleBegun { s with advanceHeld := false } .flywheel u ∧
        exec .cycleStart s = .next u.phaseZeroFirings)

/-- SYNC_EDGE (R151, R152, R154, R155, R156, R159) and QUALIFIED_LEVEL_CHANGE (R151). The level takes its new value, an edge
fills the capture record with its classification, and in SYNCED mode ends the misses and restarts or realigns the cycle
(R150, R167). The entries whose phase the tick has reached fire first (R168, R170). The model's own: the change that the
sample qualified stands in levelChange until it is taken (log 14); a tick's advance that is held stays held, an event of its own
after the edge (logs 4, 5); the count captured is the tick's (log 27); both wait for a handing (log 24). -/
def Obligations.SyncEdge : Prop :=
  (∀ (s x : State) (c : EdgeClass),
    s.levelChange = some .edge → (∀ k live, ¬ s.firing k s.phase live) → s.noHanding →
    x =
      { s with
        qualifiedLevel := !s.qualifiedLevel, syncRun := 0, levelChange := none,
        capture := some
          { cycle := s.cycle, phase := s.phase, time := s.now, classification := c, currentCycle := true } } →
    (s.params.clockMode = .free → c = .freeMode → exec .syncEdge s = .next x) ∧
    (s.params.clockMode = .synced →
      (s.params.cycleLength ≤ s.phase + s.params.syncTolerance → c = .onTime →
        ∃ u, State.CycleBegun { x with missRun := 0, lossRaised := false } .sync u ∧
          exec .syncEdge s = .next u.phaseZeroFirings) ∧
      (s.phase + s.params.syncTolerance < s.params.cycleLength →
        (s.startKind = .flywheel ∧ (∀ r, s.capture = some r → r.currentCycle = false) ∧
            s.phase ≤ s.params.syncTolerance →
          c = .late →
          exec .syncEdge s = .next { x with missRun := 0, lossRaised := false, phase := 0 }) ∧
        (¬ (s.startKind = .flywheel ∧ (∀ r, s.capture = some r → r.currentCycle = false) ∧
            s.phase ≤ s.params.syncTolerance) →
          c = .early →
          ∃ u, State.CycleBegun { x with missRun := 0, lossRaised := false } .sync u ∧
            exec .syncEdge s = .next u.phaseZeroFirings)))) ∧
  (∀ (s : State) (k : EntryIndex) (live : ScheduleFields), s.firing k s.phase live → exec .syncEdge s = .next s) ∧
  ∀ s : State, s.levelChange = some .against → s.noHanding →
    exec .qualifiedLevelChange s =
      .next { s with qualifiedLevel := !s.qualifiedLevel, syncRun := 0, levelChange := none }

/-- SCHEDULE_FIRING (R82, R160, R161, R168): the lowest-index entry that fires at the present phase fires, skipped for overlap,
for no policy or for no slot, in that order, or admitting an exchange into the lowest FREE slot; its mark and its last fire
are set in every case. That a firing waits for a handing is log 24. -/
def Obligations.ScheduleFiring : Prop :=
  (∀ (s : State) (k : EntryIndex) (live : ScheduleFields),
    s.firing k s.phase live → (∀ j, j < k → ∀ other, ¬ s.firing j s.phase other) → s.noHanding →
    exec (.scheduleFiring k) s = .next (s.fireAt s.phase k)) ∧
  (∀ (s : State) (k : EntryIndex) (phase : Nat), (∀ live, ¬ s.firing k phase live) → s.fireAt phase k = s) ∧
  ∀ (s : State) (k : EntryIndex) (phase : Nat) (live : ScheduleFields) (fired : ScheduleEntry),
    s.firing k phase live →
    fired = { s.entry k with fired := true, lastFire := some { cycle := s.cycle, phase := s.phase } } →
    ((∃ i, (s.entry k).openSlot = some i) →
      s.fireAt phase k =
        { s with
          schedule := s.schedule.set k { fired with overlapSkips := fired.overlapSkips + 1 }
          counters := (s.tally .scheduleSkips).counters }) ∧
    ((s.entry k).openSlot = none → lookupPolicy s.policies live.node live.function = none →
      s.fireAt phase k =
        { s with
          schedule := s.schedule.set k { fired with noPolicySkips := fired.noPolicySkips + 1 }
          counters := (s.tally .scheduleSkips).counters }) ∧
    (∀ p, (s.entry k).openSlot = none → lookupPolicy s.policies live.node live.function = some p →
      (∀ i, s.slot i ≠ none) →
      s.fireAt phase k =
        { s with
          schedule := s.schedule.set k { fired with noSlotSkips := fired.noSlotSkips + 1 }
          counters := (s.tally .scheduleSkips).counters }) ∧
    (∀ p i admitted, (s.entry k).openSlot = none → lookupPolicy s.policies live.node live.function = some p →
      s.slot i = none → (∀ j, j < i → s.slot j ≠ none) →
      (live.mode = .periodic → admitted = { fired with openSlot := some i, fires := fired.fires + 1 }) →
      (live.mode = .oneShot →
        admitted =
          { fired with
            openSlot := some i, fires := fired.fires + 1, state := .idle, live := some (fired.staged.getD live),
            staged := none }) →
      s.fireAt phase k =
        { s with
          schedule := s.schedule.set k admitted
          slots := s.slots.set i (some (s.newExchange (.schedule k) live.node live.function live.template p))
          admissionCounter := s.admissionCounter + 1
          pendingOrder := s.pendingOrder ++ [i] })

/-! ## Admission -/

/-- TAKE_REQUEST of a REQUEST that passes the six checks (R22, R53, R58, R59, R70, R76, R77, R80): it opens an exchange in the
lowest FREE slot, WAITING, with the next admission sequence, last in the pending order. A notice that is being handed a place is
placed first (R174; log 24). -/
def Obligations.RequestAdmitted : Prop :=
  ∀ (s : State) (f : Frame) (rest : List Frame) (p : Policy) (i : Slot),
    s.intake = f :: rest → f.kind = .request →
    f.tag.toNat ≤ 63 → f.node ≠ 0 → f.payload.length ≤ 200 →
    (∀ j e, s.slot j = some e → e.origin ≠ .head f.tag) →
    lookupPolicy s.policies f.node.toNat f.function = some p →
    s.params.scheduleReserve + 1 ≤ (List.finRange 24).countP (fun j => (s.slot j).isNone) →
    s.slot i = none → (∀ j, j < i → s.slot j ≠ none) → s.noHanding →
    exec .takeRequest s =
      .next
        { s with
          intake := rest
          slots := s.slots.set i (some (s.newExchange (.head f.tag) f.node.toNat f.function f.payload p))
          admissionCounter := s.admissionCounter + 1
          pendingOrder := s.pendingOrder ++ [i] }

/-- TAKE_REQUEST of a REQUEST that fails a check (R21, R70, R79): the first failing check gives the code; with a control place
free its REFUSAL is placed and counted and nothing else changes; with none free it waits at the front. -/
def Obligations.RequestRefused : Prop :=
  ∀ (s : State) (f : Frame) (rest : List Frame) (code : RefusalCode),
    s.intake = f :: rest → f.kind = .request →
    (63 < f.tag.toNat ∧ code = .badTag ∨
      f.tag.toNat ≤ 63 ∧
        (f.node = 0 ∧ code = .badNode ∨
          f.node ≠ 0 ∧
            (200 < f.payload.length ∧ code = .tooLong ∨
              f.payload.length ≤ 200 ∧
                ((∃ j e, s.slot j = some e ∧ e.origin = .head f.tag) ∧ code = .tagInUse ∨
                  (∀ j e, s.slot j = some e → e.origin ≠ .head f.tag) ∧
                    (lookupPolicy s.policies f.node.toNat f.function = none ∧ code = .noPolicy ∨
                      (∃ p, lookupPolicy s.policies f.node.toNat f.function = some p) ∧
                        (List.finRange 24).countP (fun j => (s.slot j).isNone) < s.params.scheduleReserve + 1 ∧
                        code = .tableFull))))) →
    (s.controlUsed < 8 →
      exec .takeRequest s =
        .next
          { s with
            intake := rest
            counters := (s.tally .refusals).counters
            delivery := s.delivery ++
              [.control
                { kind := .refusal, node := f.node, tag := f.tag, function := f.function,
                  payload := [byte (refusalCode code)] }] }) ∧
    (8 ≤ s.controlUsed → exec .takeRequest s = .next s)

/-- The lookup of a policy (R41, R44, R45): the first present of the keys (n, f), (n, any), (any, f) and (any, any); it matches
no key of another node, and its answer does not depend on the order of the table. -/
def Obligations.LookupPrecedence : Prop :=
  (∀ (table : List Policy) (n : Nat) (f : Byte),
    lookupPolicy table n f =
      (findPolicy table { node := n, function := some f } <|>
        findPolicy table { node := n, function := none } <|>
        findPolicy table { node := 0, function := some f } <|>
        findPolicy table { node := 0, function := none })) ∧
  (∀ (table : List Policy) (k : PolicyKey) (p : Policy), findPolicy table k = some p → p ∈ table ∧ p.key = k) ∧
  (∀ (table : List Policy) (k : PolicyKey), findPolicy table k = none ↔ ∀ p ∈ table, p.key ≠ k) ∧
  (∀ (table : List Policy) (n : Nat) (f : Byte) (p : Policy), lookupPolicy table n f = some p →
    (p.key.node = n ∨ p.key.node = 0) ∧ (p.key.function = some f ∨ p.key.function = none)) ∧
  ∀ (table other : List Policy) (n : Nat) (f : Byte),
    table.Perm other → table.Pairwise (fun p q => p.key ≠ q.key) → lookupPolicy table n f = lookupPolicy other n f

/-! ## Directives -/

/-- What the Directive unit judges before a directive executes (R13, R17, R18, R24, R25, R138): an unknown code is answered UNKNOWN
DIRECTIVE and counted; a Length that the index does not allow, or an argument out of its range, is answered BAD ARGUMENT;
nothing else changes. -/
def Obligations.DirectiveJudgement : Prop :=
  (∀ (s : State) (d : Frame), s.directiveFirst d d.function →
    d.function ∉ ([0x01, 0x02, 0x03, 0x04, 0x05, 0x06, 0x07, 0x08, 0x09, 0x0A, 0x10, 0x11, 0x12, 0x13, 0x18, 0x19, 0x1A,
      0x20, 0x21, 0x22, 0x23, 0x24, 0x3F] : List Byte) →
    exec .unknownDirective s =
      .next (State.acknowledged { s with counters := (s.tally .unknownDirectives).counters } d .unknownDirective [])) ∧
  (∀ (s : State) (d : Frame) (c : Instr) (code : Byte) (lengths : List Nat),
    (c, code, lengths) ∈
      ([(.fetchIdentity, 0x01, [0]), (.setParameters, 0x02, [12]), (.readParameters, 0x03, [0]),
        (.readFlags, 0x04, [0]), (.clearFlags, 0x05, [3, 6, 9, 12, 15, 18]), (.readCounters, 0x06, [0]),
        (.readTimebase, 0x07, [0]), (.loadPolicy, 0x08, [23]), (.dropPolicy, 0x09, [3]), (.readPolicy, 0x0A, [3]),
        (.readExchange, 0x10, [1]), (.readNode, 0x11, [1]), (.cancelExchange, 0x12, [1]), (.cancelNode, 0x13, [1]),
        (.postGrant, 0x18, [2]), (.withdrawGrant, 0x19, [1]), (.discardParked, 0x1A, [1]),
        (.loadScheduleEntry, 0x20, (List.range 33).map (10 + ·)), (.armEntry, 0x21, [1]), (.disarmEntry, 0x22, [1]),
        (.clearEntry, 0x23, [1]), (.readScheduleEntry, 0x24, [1]), (.restart, 0x3F, [0])] :
          List (Instr × Byte × List Nat)) →
    s.directiveFirst d code → d.payload.length ∉ lengths →
    exec c s = .next (s.acknowledged d .badArgument [])) ∧
  (∀ (s : State) (d : Frame) (c : Instr) (code b : Byte) (low high : Nat),
    (c, code, low, high) ∈
      ([(.readExchange, 0x10, 0, 23), (.readNode, 0x11, 1, 62), (.cancelExchange, 0x12, 0, 63),
        (.cancelNode, 0x13, 1, 62), (.withdrawGrant, 0x19, 1, 62), (.discardParked, 0x1A, 1, 62),
        (.armEntry, 0x21, 0, 31), (.disarmEntry, 0x22, 0, 31), (.clearEntry, 0x23, 0, 31),
        (.readScheduleEntry, 0x24, 0, 31)] : List (Instr × Byte × Nat × Nat)) →
    s.directiveFirst d code → d.payload = [b] → b.toNat < low ∨ high < b.toNat →
    exec c s = .next (s.acknowledged d .badArgument [])) ∧
  ∀ (s : State) (d : Frame) (node k : Byte), s.directiveFirst d 0x18 → d.payload = [node, k] →
    node = 0 ∨ 62 < node.toNat ∨ k = 0 ∨ 15 < k.toNat →
    exec .postGrant s = .next (s.acknowledged d .badArgument [])

/-- FETCH_IDENTITY (R27): DONE with the fixed 14-byte identity in every state, and nothing changed but the taking. -/
def Obligations.FetchIdentity : Prop :=
  ∀ (s : State) (d : Frame), s.directiveFirst d 0x01 → d.payload = [] →
    exec .fetchIdentity s =
      .next
        (s.acknowledged d .done
          [0x4C, 0x52, 0x32, 0x34, 0x01, 24, 128, 32, 16, 8, 4, 24, 16, 8])

/-- READ_PARAMETERS, READ_FLAGS, READ_COUNTERS, READ_TIMEBASE, READ_EXCHANGE, READ_NODE and READ_SCHEDULE_ENTRY (R31, R35, R37,
R67, R68, R153, R166): DONE with the record as it stands at the taking, the counters already showing this directive, and
nothing changed but the taking. ResultLayouts states where the results hold what. -/
def Obligations.ReadDirectives : Prop :=
  ∀ (s : State) (d : Frame),
    (s.directiveFirst d 0x03 → d.payload = [] →
      exec .readParameters s = .next (s.acknowledged d .done (parametersResult s.params s.stagedLength))) ∧
    (s.directiveFirst d 0x04 → d.payload = [] →
      exec .readFlags s = .next (s.acknowledged d .done (flagsResult s.flagEvent s.flags))) ∧
    (s.directiveFirst d 0x06 → d.payload = [] →
      exec .readCounters s =
        .next (s.acknowledged d .done (countersResult (s.tally .directivesTaken).counters))) ∧
    (s.directiveFirst d 0x07 → d.payload = [] →
      exec .readTimebase s = .next (s.acknowledged d .done (timebaseResult s))) ∧
    (∀ (b : Byte) (i : Slot), s.directiveFirst d 0x10 → d.payload = [b] → b.toNat = i.val →
      exec .readExchange s = .next (s.acknowledged d .done (exchangeImage (s.slot i)))) ∧
    (∀ (b : Byte) (parked released : Nat), s.directiveFirst d 0x11 → d.payload = [b] → 1 ≤ b.toNat → b.toNat ≤ 62 →
      parked = (List.finRange 16).countP (fun k =>
        (s.stored k).any fun r => r.node == b.toNat && !r.released) →
      released = (List.finRange 16).countP (fun k =>
        (s.stored k).any fun r => r.node == b.toNat && r.released) →
      exec .readNode s = .next (s.acknowledged d .done (nodeImage (s.node b.toNat) parked released))) ∧
    (∀ (b : Byte) (k : EntryIndex), s.directiveFirst d 0x24 → d.payload = [b] → b.toNat = k.val →
      exec .readScheduleEntry s = .next (s.acknowledged d .done (scheduleResult (s.entry k))))

/-- The layouts of the results and of the outcome record, offset by offset (R10, R14, R16, R18, R19, R67, R68): how long each
is, and where it holds what. -/
def Obligations.ResultLayouts : Prop :=
  (∀ (p : Parameters) (staged : Option Nat),
    (parametersResult p staged).length = 16 ∧ (parametersResult p staged).take 12 = parameterImage p ∧
    byteAt (parametersResult p staged) 12 = (if staged.isSome then 1 else 0) ∧
    fieldAt (parametersResult p staged) 13 3 = staged.getD 0 % 16777216) ∧
  (∀ (event : BitVec 16) (flags : Vector FlagRecord 6) (f : Fin 6),
    (flagsResult event flags).length = 26 ∧ fieldAt (flagsResult event flags) 0 2 = event.toNat ∧
    byteAt (flagsResult event flags) (2 + 4 * f.val) = (if flags[f].raised then 1 else 0) ∧
    fieldAt (flagsResult event flags) (3 + 4 * f.val) 2 = flags[f].stamp.toNat ∧
    byteAt (flagsResult event flags) (5 + 4 * f.val) = flags[f].count.toNat) ∧
  (∀ (counters : Vector (BitVec 32) 30) (i : Fin 30),
    (countersResult counters).length = 120 ∧ fieldAt (countersResult counters) (4 * i.val) 4 = counters[i].toNat) ∧
  (∀ s : State,
    (timebaseResult s).length = 28 ∧ fieldAt (timebaseResult s) 0 6 = s.now.toNat ∧
    fieldAt (timebaseResult s) 6 2 = s.cycle.toNat ∧ fieldAt (timebaseResult s) 8 3 = s.phase % 16777216 ∧
    byteAt (timebaseResult s) 11 = startKindCode s.startKind ∧ byteAt (timebaseResult s) 12 = s.missRun % 256 ∧
    byteAt (timebaseResult s) 13 = (if s.lossRaised then 1 else 0) ∧
    (s.capture = none → (timebaseResult s).drop 14 = List.replicate 14 0) ∧
    ∀ c, s.capture = some c →
      byteAt (timebaseResult s) 14 = 1 ∧ fieldAt (timebaseResult s) 15 2 = c.cycle.toNat ∧
      fieldAt (timebaseResult s) 17 3 = c.phase % 16777216 ∧ fieldAt (timebaseResult s) 20 6 = c.time.toNat ∧
      byteAt (timebaseResult s) 26 = edgeClassCode c.classification ∧
      byteAt (timebaseResult s) 27 = (if c.currentCycle then 1 else 0)) ∧
  exchangeImage none = List.replicate 81 0 ∧
  (∀ e : Exchange,
    (exchangeImage (some e)).length = 81 ∧
    byteAt (exchangeImage (some e)) 0 = exchangeStateCode e.state ∧
    byteAt (exchangeImage (some e)) 1 = originCode e.origin ∧
    (exchangeImage (some e)).getD 2 0 = originTag e.origin ∧
    byteAt (exchangeImage (some e)) 3 = e.node % 256 ∧ (exchangeImage (some e)).getD 4 0 = e.function ∧
    byteAt (exchangeImage (some e)) 5 = e.buffer.length % 256 ∧
    fieldAt (exchangeImage (some e)) 6 4 = e.admissionSeq.toNat ∧
    fieldAt (exchangeImage (some e)) 10 6 = e.admissionTime.toNat ∧
    fieldAt (exchangeImage (some e)) 16 2 = e.admissionCycle.toNat ∧
    byteAt (exchangeImage (some e)) 18 = e.issueCount % 256 ∧
    byteAt (exchangeImage (some e)) 19 = e.deferCount % 256 ∧
    byteAt (exchangeImage (some e)) 20 = e.silentCount % 256 ∧
    byteAt (exchangeImage (some e)) 21 = (e.outcome.map outcomeCode).getD 0 ∧
    ((exchangeImage (some e)).getD 22 0).getLsbD 0 = e.firstIssue.isSome ∧
    ((exchangeImage (some e)).getD 22 0).getLsbD 1 = e.lastCompletion.isSome ∧
    ((exchangeImage (some e)).getD 22 0).getLsbD 2 = e.answerDue.isSome ∧
    ((exchangeImage (some e)).getD 22 0).getLsbD 3 = e.reissueDue.isSome ∧
    ((exchangeImage (some e)).getD 22 0).getLsbD 4 = e.answer.isSome ∧
    ((exchangeImage (some e)).getD 22 0).getLsbD 5 = e.truncated ∧
    fieldAt (exchangeImage (some e)) 23 2 = ((e.firstIssue.map fun t => t.cycle.toNat).getD 0) ∧
    fieldAt (exchangeImage (some e)) 25 3 = ((e.firstIssue.map fun t => t.phase % 16777216).getD 0) ∧
    fieldAt (exchangeImage (some e)) 28 6 = ((e.lastCompletion.map BitVec.toNat).getD 0) ∧
    fieldAt (exchangeImage (some e)) 34 6 = (((e.answerDue <|> e.reissueDue).map BitVec.toNat).getD 0) ∧
    fieldAt (exchangeImage (some e)) 40 6 = e.lifetimeEnd.toNat ∧
    byteAt (exchangeImage (some e)) 46 = ((e.answer.map fun a => a.length % 256).getD 0) ∧
    (fieldAt (exchangeImage (some e)) 47 2 : Int) = ((e.answer.map fun a => a.residue % 65536).getD 0) ∧
    fieldAt (exchangeImage (some e)) 49 2 = ((e.answer.map fun a => a.time.cycle.toNat).getD 0) ∧
    fieldAt (exchangeImage (some e)) 51 3 = ((e.answer.map fun a => a.time.phase % 16777216).getD 0) ∧
    fieldAt (exchangeImage (some e)) 54 4 = ((e.answer.map fun a => a.latency % 4294967296).getD 0) ∧
    (exchangeImage (some e)).drop 58 = policyImage e.snapshot) ∧
  (∀ (n : NodeEntry) (parked released : Nat),
    (nodeImage n parked released).length = 23 ∧ byteAt (nodeImage n parked released) 0 = nodeStateCode n.state ∧
    ((∃ i, (n.state = .occupied i ∨ n.state = .held i) ∧ byteAt (nodeImage n parked released) 1 = i.val) ∨
      (n.state = .idle ∨ ∃ q, n.state = .quiet q) ∧ byteAt (nodeImage n parked released) 1 = 255) ∧
    (nodeImage n parked released).getD 2 0 = n.issueNumber ∧
    (((nodeImage n parked released).getD 3 0).getLsbD 0 = true ↔ ∃ q, n.state = .quiet (some q)) ∧
    ((nodeImage n parked released).getD 3 0).getLsbD 1 = n.lastSequence.isSome ∧
    (∀ q, n.state = .quiet (some q) → fieldAt (nodeImage n parked released) 4 6 = q.toNat) ∧
    ((∀ q, n.state ≠ .quiet (some q)) → fieldAt (nodeImage n parked released) 4 6 = 0) ∧
    fieldAt (nodeImage n parked released) 10 4 = n.lastLatency % 4294967296 ∧
    fieldAt (nodeImage n parked released) 14 4 = n.maxLatency % 4294967296 ∧
    byteAt (nodeImage n parked released) 18 = n.credit % 256 ∧
    (nodeImage n parked released).getD 19 0 = n.lastSequence.getD 0 ∧
    byteAt (nodeImage n parked released) 20 = noticeStateCode n.notice ∧
    byteAt (nodeImage n parked released) 21 = parked % 256 ∧
    byteAt (nodeImage n parked released) 22 = released % 256) ∧
  (∀ (i : Slot) (e : Exchange),
    (outcomeRecord i e).length = 24 ∧ byteAt (outcomeRecord i e) 0 = originCode e.origin ∧
    byteAt (outcomeRecord i e) 1 = (e.outcome.map outcomeCode).getD 0 ∧ byteAt (outcomeRecord i e) 2 = i.val ∧
    byteAt (outcomeRecord i e) 3 = e.issueCount % 256 ∧ byteAt (outcomeRecord i e) 4 = e.deferCount % 256 ∧
    byteAt (outcomeRecord i e) 5 = e.silentCount % 256 ∧
    fieldAt (outcomeRecord i e) 6 2 = ((e.firstIssue.map fun t => t.cycle.toNat).getD 0) ∧
    fieldAt (outcomeRecord i e) 8 3 = ((e.firstIssue.map fun t => t.phase % 16777216).getD 0) ∧
    fieldAt (outcomeRecord i e) 11 2 = ((e.answer.map fun a => a.time.cycle.toNat).getD 0) ∧
    fieldAt (outcomeRecord i e) 13 3 = ((e.answer.map fun a => a.time.phase % 16777216).getD 0) ∧
    fieldAt (outcomeRecord i e) 16 4 = ((e.answer.map fun a => a.latency % 4294967296).getD 0) ∧
    (fieldAt (outcomeRecord i e) 20 2 : Int) = ((e.answer.map fun a => a.residue % 65536).getD 0) ∧
    byteAt (outcomeRecord i e) 22 = ((e.answer.map fun a => a.length % 256).getD 0) ∧
    ((outcomeRecord i e).getD 23 0).getLsbD 0 = e.firstIssue.isSome ∧
    ((outcomeRecord i e).getD 23 0).getLsbD 1 = e.answer.isSome ∧
    ((outcomeRecord i e).getD 23 0).getLsbD 2 = e.truncated) ∧
  ∀ e : ScheduleEntry, (∀ f, e.live = some f ∨ e.staged = some f → f.template.length ≤ 32) →
    (scheduleResult e).length = 113 ∧ byteAt (scheduleResult e) 0 = scheduleStateCode e.state ∧
    byteAt (scheduleResult e) 1 = (if e.fired then 1 else 0) ∧
    byteAt (scheduleResult e) 2 = (if e.openSlot.isSome then 1 else 0) ∧
    byteAt (scheduleResult e) 3 = (e.openSlot.map Fin.val).getD 0 ∧
    ((scheduleResult e).drop 4).take 41 = (e.live.map fieldsImage).getD (List.replicate 41 0) ∧
    byteAt (scheduleResult e) 45 = (if e.staged.isSome then 1 else 0) ∧
    ((scheduleResult e).drop 46).take 41 = (e.staged.map fieldsImage).getD (List.replicate 41 0) ∧
    fieldAt (scheduleResult e) 87 4 = e.fires.toNat ∧ fieldAt (scheduleResult e) 91 4 = e.overlapSkips.toNat ∧
    fieldAt (scheduleResult e) 95 4 = e.noSlotSkips.toNat ∧
    fieldAt (scheduleResult e) 99 4 = e.noPolicySkips.toNat ∧ fieldAt (scheduleResult e) 103 4 = e.cuts.toNat ∧
    byteAt (scheduleResult e) 107 = (if e.lastFire.isSome then 1 else 0) ∧
    fieldAt (scheduleResult e) 108 2 = ((e.lastFire.map fun t => t.cycle.toNat).getD 0) ∧
    fieldAt (scheduleResult e) 110 3 = ((e.lastFire.map fun t => t.phase % 16777216).getD 0)

/-- SET_PARAMETERS (R28, R29, R30, R151, R157): a valid image whose tolerance fits the length in force is applied whole, its Cycle
Length staged or a staged length dropped, a changed mode ending the misses, a changed filter or polarity counting a level
change under way afresh, a change already qualified staying to be taken (log 14); any other image changes no parameter. -/
def Obligations.SetParameters : Prop :=
  (∀ (s u : State) (d : Frame) (p : Parameters),
    s.directiveFirst d 0x02 → d.payload = parameterImage p → parametersValid p = true →
    p.syncTolerance < s.params.cycleLength →
    u =
      { s with
        params := { p with cycleLength := s.params.cycleLength }
        stagedLength := if p.cycleLength = s.params.cycleLength then none else some p.cycleLength
        missRun := if p.clockMode = s.params.clockMode then s.missRun else 0
        lossRaised := if p.clockMode = s.params.clockMode then s.lossRaised else false
        syncRun :=
          if p.syncFilter = s.params.syncFilter ∧ p.syncPolarity = s.params.syncPolarity then s.syncRun else 0 } →
    exec .setParameters s = .next (u.acknowledged d .done [])) ∧
  ∀ (s : State) (d : Frame), s.directiveFirst d 0x02 →
    (∀ p, parametersValid p = true → p.syncTolerance < s.params.cycleLength → d.payload ≠ parameterImage p) →
    exec .setParameters s = .next (s.acknowledged d .badArgument [])

/-- The raise of a flag (R33, R34): the next flag event number, never 0, into the stamp; the raise count up to 255; the notice
owed for a flag in the Alert Mask. CLEAR_FLAGS (R14, R36): each pair clears its flag exactly when it carries the flag's stamp,
PARTIAL when a flag named is still raised; a number above 5 or one repeated is out of range. -/
def Obligations.RaiseAndClearFlags : Prop :=
  (∀ (s : State) (f : Flag),
    (s.raiseFlag f).flagEvent = (if s.flagEvent = 65535 then 1 else s.flagEvent + 1) ∧
    (s.raiseFlag f).flag f =
      { raised := true, stamp := (s.raiseFlag f).flagEvent,
        count := if (s.flag f).count = 255 then 255 else (s.flag f).count + 1 } ∧
    (∀ g, g ≠ f → (s.raiseFlag f).flag g = s.flag g) ∧
    ((s.raiseFlag f).flagsOwed = true ↔
      s.flagsOwed = true ∨ s.params.alertMask.getLsbD (flagNumber f) = true) ∧
    s.raiseFlag f =
      { s with
        flagEvent := (s.raiseFlag f).flagEvent, flags := (s.raiseFlag f).flags,
        flagsOwed := (s.raiseFlag f).flagsOwed }) ∧
  (∀ (s : State) (d : Frame) (pairs : List (Flag × BitVec 16)) (status : AckStatus),
    s.directiveFirst d 0x05 → 1 ≤ pairs.length → (pairs.map Prod.fst).Nodup →
    d.payload = pairs.flatMap (fun p => byte (flagNumber p.1).val :: beBytes 2 p.2.toNat) →
    ((∃ p ∈ pairs, (s.flag p.1).raised = true ∧ (s.flag p.1).stamp ≠ p.2) → status = .partialDone) →
    ((∀ p ∈ pairs, (s.flag p.1).raised = true → (s.flag p.1).stamp = p.2) → status = .done) →
    ∃ t, exec .clearFlags s = .next t ∧
      (∀ p ∈ pairs, (s.flag p.1).raised = true → (s.flag p.1).stamp = p.2 →
        t.flag p.1 = { raised := false, stamp := 0, count := 0 }) ∧
      (∀ p ∈ pairs, (s.flag p.1).raised = false ∨ (s.flag p.1).stamp ≠ p.2 → t.flag p.1 = s.flag p.1) ∧
      (∀ f, f ∉ pairs.map Prod.fst → t.flag f = s.flag f) ∧
      t =
        State.acknowledged { s with flags := t.flags } d status
          (pairs.map fun p =>
            if (s.flag p.1).raised = false then 0x02 else if (s.flag p.1).stamp = p.2 then 0x00 else 0x01)) ∧
  ∀ (s : State) (d : Frame) (triples : List (Byte × Byte × Byte)),
    s.directiveFirst d 0x05 → d.payload = triples.flatMap (fun t => [t.1, t.2.1, t.2.2]) →
    (∃ t ∈ triples, 5 < t.1.toNat) ∨ ¬ (triples.map fun t => t.1).Nodup →
    exec .clearFlags s = .next (s.acknowledged d .badArgument [])

/-- LOAD_POLICY and DROP_POLICY (R40, R43, R47, R48): a valid image replaces the entry of its key, or is stored while there are
fewer than 128, and otherwise finds the table full; a drop removes exactly the entry of its key. What is not valid is answered
BAD ARGUMENT, and every other key keeps its entry. -/
def Obligations.LoadAndDropPolicy : Prop :=
  (∀ (s : State) (d : Frame) (p : Policy), s.PolicyLaw →
    s.directiveFirst d 0x08 → d.payload = policyImage p → policyValid p = true →
    ((∃ q ∈ s.policies, q.key = p.key) →
      ∃ t, exec .loadPolicy s = .next t ∧ t = State.acknowledged { s with policies := t.policies } d .replaced [] ∧
        t.policies.length = s.policies.length ∧ findPolicy t.policies p.key = some p ∧
        ∀ k, k ≠ p.key → findPolicy t.policies k = findPolicy s.policies k) ∧
    ((∀ q ∈ s.policies, q.key ≠ p.key) → s.policies.length < 128 →
      ∃ t, exec .loadPolicy s = .next t ∧ t = State.acknowledged { s with policies := t.policies } d .done [] ∧
        t.policies.length = s.policies.length + 1 ∧ findPolicy t.policies p.key = some p ∧
        ∀ k, k ≠ p.key → findPolicy t.policies k = findPolicy s.policies k) ∧
    ((∀ q ∈ s.policies, q.key ≠ p.key) → 128 ≤ s.policies.length →
      exec .loadPolicy s = .next (s.acknowledged d .tableFull []))) ∧
  (∀ (s : State) (d : Frame), s.directiveFirst d 0x08 →
    (∀ p, policyValid p = true → d.payload ≠ policyImage p) →
    exec .loadPolicy s = .next (s.acknowledged d .badArgument [])) ∧
  (∀ (s : State) (d : Frame) (k : PolicyKey), s.PolicyLaw →
    s.directiveFirst d 0x09 → d.payload = keyImage k → k.node ≤ 63 →
    ((∃ q ∈ s.policies, q.key = k) →
      ∃ t, exec .dropPolicy s = .next t ∧ t = State.acknowledged { s with policies := t.policies } d .done [] ∧
        t.policies.length + 1 = s.policies.length ∧ findPolicy t.policies k = none ∧
        ∀ j, j ≠ k → findPolicy t.policies j = findPolicy s.policies j) ∧
    ((∀ q ∈ s.policies, q.key ≠ k) → exec .dropPolicy s = .next (s.acknowledged d .notFound []))) ∧
  ∀ (s : State) (d : Frame), s.directiveFirst d 0x09 →
    (∀ k : PolicyKey, k.node ≤ 63 → d.payload ≠ keyImage k) →
    exec .dropPolicy s = .next (s.acknowledged d .badArgument [])

/-- READ_POLICY (R49): DONE with the image of the entry of exactly this key, NOT FOUND without one, BAD ARGUMENT for key bytes out
of range; nothing in the table changes. -/
def Obligations.ReadPolicy : Prop :=
  ∀ (s : State) (d : Frame), s.directiveFirst d 0x0A →
    (∀ (a b c : Byte) (k : PolicyKey), d.payload = [a, b, c] → a.toNat ≤ 63 → k.node = a.toNat →
      (b = 0 ∧ k.function = some c ∨ b = 1 ∧ c = 0 ∧ k.function = none) →
      (∀ p, findPolicy s.policies k = some p →
        exec .readPolicy s = .next (s.acknowledged d .done (policyImage p)) ∧ p.key = k ∧
          (policyImage p).take 3 = d.payload ∧ (policyImage p).length = 23) ∧
      ((∀ p ∈ s.policies, p.key ≠ k) → exec .readPolicy s = .next (s.acknowledged d .notFound []))) ∧
    (∀ a b c : Byte, d.payload = [a, b, c] → 63 < a.toNat ∨ 1 < b.toNat ∨ b = 1 ∧ c ≠ 0 →
      exec .readPolicy s = .next (s.acknowledged d .badArgument [])) ∧
    (d.payload.length ≠ 3 → exec .readPolicy s = .next (s.acknowledged d .badArgument []))

/-- CANCEL_EXCHANGE (R24, R64, R117, R118): by the state of the one HEAD-origin exchange with the tag, its conclusion CANCELLED with
its node effect and the conclusion item ahead of the ACKNOWLEDGE, or TOO LATE; NOT FOUND without one. -/
def Obligations.CancelExchange : Prop :=
  (∀ (s : State) (d : Frame) (tag : Byte) (i : Slot) (e : Exchange),
    s.directiveFirst d 0x12 → d.payload = [tag] → tag.toNat ≤ 63 → s.slot i = some e → e.origin = .head tag →
    (∀ j f, s.slot j = some f → f.origin = .head tag → j = i) →
    (e.state = .waiting →
      exec .cancelExchange s = .next ((s.concludedAs i e .cancelled).acknowledged d .done [0x01, byte i.val])) ∧
    (e.state = .issued → e.node ≠ 63 →
      exec .cancelExchange s =
        .next
          (State.acknowledged
            { s.concludedAs i e .cancelled with
              nodes := changeNode s.nodes e.node fun x => { x with state := .quiet e.answerDue } }
            d .done [0x02, byte i.val])) ∧
    (e.state = .issued → e.node = 63 →
      exec .cancelExchange s = .next (s.acknowledged d .tooLate [0x02, byte i.val])) ∧
    (∀ code, (e.state = .deferred ∧ code = 0x03 ∨ e.state = .ready ∧ code = 0x04) →
      exec .cancelExchange s =
        .next
          (State.acknowledged
            { s.concludedAs i e .cancelled with
              nodes := changeNode s.nodes e.node fun x => { x with state := .idle } }
            d .done [code, byte i.val])) ∧
    (e.state = .concluded →
      exec .cancelExchange s = .next (s.acknowledged d .tooLate [0x05, byte i.val]))) ∧
  ∀ (s : State) (d : Frame) (tag : Byte),
    s.directiveFirst d 0x12 → d.payload = [tag] → tag.toNat ≤ 63 →
    (∀ j f, s.slot j = some f → f.origin ≠ .head tag) →
    exec .cancelExchange s = .next (s.acknowledged d .notFound [])

/-- CANCEL_NODE (R64, R119), in a state that meets the exchange laws: every exchange to the node that is not CONCLUDED concludes
CANCELLED, oldest first, the items ahead of the ACKNOWLEDGE; an OCCUPIED node becomes QUIET, a HELD one IDLE, and any other is
left; the result counts the exchanges. -/
def Obligations.CancelNode : Prop :=
  ∀ (s : State) (d : Frame) (node : Byte) (hit : List Slot), s.ExchangeLaw →
    s.directiveFirst d 0x13 → d.payload = [node] → 1 ≤ node.toNat → node.toNat ≤ 62 →
    hit = s.slotsByAge (fun e => e.node == node.toNat && e.state != .concluded) →
    ∃ t, exec .cancelNode s = .next t ∧
      (∀ i e, s.slot i = some e → e.node = node.toNat → e.state ≠ .concluded →
        t.slot i =
          some { e with
            state := .concluded, outcome := some .cancelled, lifetimeArmed := false,
            answerDue := none, reissueDue := none }) ∧
      (∀ i e, s.slot i = some e → e.node ≠ node.toNat ∨ e.state = .concluded → t.slot i = some e) ∧
      (∀ i, s.slot i = none → t.slot i = none) ∧
      (∀ i e, (s.node node.toNat).state = .occupied i → s.slot i = some e →
        t.node node.toNat = { s.node node.toNat with state := .quiet e.answerDue }) ∧
      (∀ i, (s.node node.toNat).state = .held i →
        t.node node.toNat = { s.node node.toNat with state := .idle }) ∧
      ((s.node node.toNat).state = .idle ∨ (∃ q, (s.node node.toNat).state = .quiet q) →
        t.node node.toNat = s.node node.toNat) ∧
      (∀ n, n ≠ node.toNat → t.node n = s.node n) ∧
      t =
        State.acknowledged
          { s with
            slots := t.slots, nodes := t.nodes,
            pendingOrder := s.pendingOrder.filter (· ∉ hit), deferralList := s.deferralList.filter (· ∉ hit),
            delivery := s.delivery ++ hit.map Item.conclusion,
            counters := (Nat.iterate (State.tally · (.outcomes .cancelled)) hit.length s).counters }
          d .done [byte hit.length]

/-- LOAD_SCHEDULE_ENTRY (R18, R160, R163): a valid image whose phase is below the length that will be in force becomes the live
fields of an EMPTY or IDLE entry, or the staged copy of an ARMED one, and the result says which; any other argument is
answered BAD ARGUMENT. -/
def Obligations.LoadScheduleEntry : Prop :=
  (∀ (s : State) (d : Frame) (k : EntryIndex) (f : ScheduleFields),
    s.directiveFirst d 0x20 → d.payload = loadEntryImage k f →
    1 ≤ f.node → f.node ≤ 62 → 1 ≤ f.divisor → f.divisor ≤ 64 → f.offset < f.divisor → f.template.length ≤ 32 →
    f.phase < 16777216 →
    (f.phase < s.stagedLength.getD s.params.cycleLength →
      ((s.entry k).state = .empty ∨ (s.entry k).state = .idle →
        exec .loadScheduleEntry s =
          .next
            (State.acknowledged
              { s with schedule := s.schedule.set k { s.entry k with state := .idle, live := some f } } d .done [0x00])) ∧
      ((s.entry k).state = .armed → (s.entry k).staged = none →
        exec .loadScheduleEntry s =
          .next
            (State.acknowledged { s with schedule := s.schedule.set k { s.entry k with staged := some f } } d .done
              [0x01])) ∧
      (∀ copy, (s.entry k).state = .armed → (s.entry k).staged = some copy →
        exec .loadScheduleEntry s =
          .next
            (State.acknowledged { s with schedule := s.schedule.set k { s.entry k with staged := some f } } d .done
              [0x02]))) ∧
    (s.stagedLength.getD s.params.cycleLength ≤ f.phase →
      exec .loadScheduleEntry s = .next (s.acknowledged d .badArgument []))) ∧
  ∀ (s : State) (d : Frame), s.directiveFirst d 0x20 →
    (∀ (k : EntryIndex) (f : ScheduleFields), scheduleFieldsValid f = true → d.payload ≠ loadEntryImage k f) →
    exec .loadScheduleEntry s = .next (s.acknowledged d .badArgument [])

/-- ARM_ENTRY, DISARM_ENTRY and CLEAR_ENTRY (R161, R164, R165): the entry's new state and fields by the state it is in, the mark
set at arming when its phase has been reached, WRONG STATE where the rules say so; reference and statistics kept. -/
def Obligations.ArmDisarmClear : Prop :=
  (∀ (s : State) (d : Frame) (b : Byte) (k : EntryIndex), s.directiveFirst d 0x21 → d.payload = [b] → b.toNat = k.val →
    ((s.entry k).state = .empty → exec .armEntry s = .next (s.acknowledged d .wrongState [])) ∧
    ((s.entry k).state = .armed → exec .armEntry s = .next (s.acknowledged d .done [])) ∧
    ∀ live, (s.entry k).state = .idle → (s.entry k).live = some live →
      (s.params.cycleLength ≤ live.phase ∨ (∃ l, s.stagedLength = some l ∧ l ≤ live.phase) →
        exec .armEntry s = .next (s.acknowledged d .wrongState [])) ∧
      (live.phase < s.params.cycleLength → (∀ l, s.stagedLength = some l → live.phase < l) →
        (live.phase ≤ s.phase →
          exec .armEntry s =
            .next
              (State.acknowledged
                { s with schedule := s.schedule.set k { s.entry k with state := .armed, fired := true } } d .done [])) ∧
        (s.phase < live.phase →
          exec .armEntry s =
            .next
              (State.acknowledged { s with schedule := s.schedule.set k { s.entry k with state := .armed } } d .done
                [])))) ∧
  (∀ (s : State) (d : Frame) (b : Byte) (k : EntryIndex), s.directiveFirst d 0x22 → d.payload = [b] → b.toNat = k.val →
    ((s.entry k).state = .empty → exec .disarmEntry s = .next (s.acknowledged d .wrongState [])) ∧
    ((s.entry k).state = .idle → exec .disarmEntry s = .next (s.acknowledged d .done [])) ∧
    (∀ copy, (s.entry k).state = .armed → (s.entry k).staged = some copy →
      exec .disarmEntry s =
        .next
          (State.acknowledged
            { s with
              schedule := s.schedule.set k { s.entry k with state := .idle, live := some copy, staged := none } }
            d .done [])) ∧
    ((s.entry k).state = .armed → (s.entry k).staged = none →
      exec .disarmEntry s =
        .next
          (State.acknowledged { s with schedule := s.schedule.set k { s.entry k with state := .idle } } d .done []))) ∧
  ∀ (s : State) (d : Frame) (b : Byte) (k : EntryIndex), s.directiveFirst d 0x23 → d.payload = [b] → b.toNat = k.val →
    exec .clearEntry s =
      .next
        (State.acknowledged
          { s with
            schedule := s.schedule.set k
              { s.entry k with state := .empty, live := none, staged := none, fired := false } }
          d .done [])

/-- RESTART (R66, R69, R126, R127, R128, R146, R171, R178): all traffic state cleared, both transmissions cut short, the
ACKNOWLEDGE the only item of the Delivery List, FLAGS RAISED owed when the list held its notice; policies, parameters, flags,
counters, clocks, lines, issue numbers and entry fields kept. -/
def Obligations.Restart : Prop :=
  ∀ (s : State) (d : Frame), s.directiveFirst d 0x3F → d.payload = [] →
    ∃ t, exec .restart s = .next t ∧
      (∀ i, t.slot i = none) ∧ (∀ k, t.stored k = none) ∧
      (∀ n, t.node n =
        { state := .idle, issueNumber := (s.node n).issueNumber, lastLatency := 0, maxLatency := 0, credit := 0,
          lastSequence := none, notice := .none, parkOrder := [] }) ∧
      (∀ k copy, (s.entry k).state = .armed → (s.entry k).staged = some copy →
        t.entry k = { s.entry k with state := .idle, live := some copy, staged := none, openSlot := none }) ∧
      (∀ k, (s.entry k).state = .armed → (s.entry k).staged = none →
        t.entry k = { s.entry k with state := .idle, openSlot := none }) ∧
      (∀ k, (s.entry k).state ≠ .armed → t.entry k = { s.entry k with openSlot := none }) ∧
      (t.flagsOwed = true ↔
        s.flagsOwed = true ∨ ∃ f, Item.control f ∈ s.delivery ∧ f.kind = .notice ∧ f.function = 2) ∧
      t =
        State.acknowledged
          { s with
            headPort := { s.headPort with tx := none }, fieldPort := { s.fieldPort with tx := none },
            slots := t.slots, pendingOrder := [], deferralList := [], nodes := t.nodes, scheduleRun := 0,
            inFlight := none, receipts := [], store := t.store, owedOrder := [], schedule := t.schedule,
            delivery := [], flagsOwed := t.flagsOwed }
          d .done []

/-! ## The whole machine -/

/-- Which commands change what (R28, R40, R58, R62, R147): the monotonic count moves only at RESET and the tick; the cycle length
in force only at RESET and a cycle start; policies only by RESET and the policy directives; issue numbers only at RESET and
an issue's selection; the admission counter only at RESET and admissions; a raised flag clears only at RESET and by Clear
Flags. -/
def Obligations.WhoChanges : Prop :=
  ∀ (c : Instr) (s t : State), exec c s = .next t →
    (t.now ≠ s.now → c = .reset ∨ ∃ a b d e, c = .tick a b d e) ∧
    (t.params.cycleLength ≠ s.params.cycleLength → c = .reset ∨ c = .cycleStart ∨ c = .syncEdge) ∧
    (t.policies ≠ s.policies → c = .reset ∨ c = .loadPolicy ∨ c = .dropPolicy) ∧
    (∀ n, (t.node n).issueNumber ≠ (s.node n).issueNumber → c = .reset ∨ c = .issueSelection) ∧
    (t.admissionCounter ≠ s.admissionCounter →
      c = .reset ∨ c = .takeRequest ∨ c = .cycleStart ∨ c = .syncEdge ∨ ∃ k, c = .scheduleFiring k) ∧
    ∀ f, (s.flag f).raised = true → (t.flag f).raised = false → c = .reset ∨ c = .clearFlags

/-- The fields set at admission do not change while an exchange is open, and its snapshot with them, whatever the policy
directives do (R50, R51, R54); its slot buffer changes only by an ANSWER (R56). -/
def Obligations.AdmissionFieldsKept : Prop :=
  ∀ (c : Instr) (s t : State) (i : Slot) (e f : Exchange),
    exec c s = .next t → s.slot i = some e → t.slot i = some f →
    f.fixedPart = e.fixedPart ∧ (f.buffer ≠ e.buffer → ∃ n g h p, c = .answerArrival n g h p)

/-- A conclusion stands (R10, R56, R61, R101): in a state that meets the exchange laws no command changes a CONCLUDED record, and
no command frees a slot but the completion of its own OUTCOME, RESTART and RESET. -/
def Obligations.ConclusionStands : Prop :=
  ∀ (c : Instr) (s t : State) (i : Slot) (e : Exchange), s.ExchangeLaw → exec c s = .next t → s.slot i = some e →
    (e.state = .concluded → t.slot i = some e ∨ t.slot i = none) ∧
    (t.slot i = none → c = .reset ∨ c = .restart ∨
      c = .outcomeTransmitCompletion ∧ s.delivery.head? = some (.conclusion i) ∧ s.headSent)

/-- Images hold their fields at the manual's offsets, are read back as they were built, and every image that is accepted is the
image of what was read: policies, policy keys, parameters and schedule entries (R14, R15, R18, R43). -/
def Obligations.ImagesRoundTrip : Prop :=
  (∀ p : Policy, policyValid p = true →
    (policyImage p).length = 23 ∧ byteAt (policyImage p) 0 = p.key.node ∧
    byteAt (policyImage p) 1 = (if p.key.function.isSome then 0 else 1) ∧
    (policyImage p).getD 2 0 = p.key.function.getD 0 ∧ byteAt (policyImage p) 3 = p.nominal ∧
    byteAt (policyImage p) 4 = p.minimum ∧ byteAt (policyImage p) 5 = p.maximum ∧
    byteAt (policyImage p) 6 = longActionCode p.longAction ∧ byteAt (policyImage p) 7 = shortActionCode p.shortAction ∧
    fieldAt (policyImage p) 8 4 = p.answerWindow ∧ fieldAt (policyImage p) 12 4 = p.lifetime ∧
    byteAt (policyImage p) 16 = p.deferLimit ∧ byteAt (policyImage p) 17 = p.silentLimit ∧
    fieldAt (policyImage p) 18 4 = p.baseDelay ∧ byteAt (policyImage p) 22 = backoffCode p.backoff) ∧
  (∀ p : Parameters, parametersValid p = true →
    (parameterImage p).length = 12 ∧ byteAt (parameterImage p) 0 = p.scheduleReserve ∧
    byteAt (parameterImage p) 1 = p.acyclicShare ∧ byteAt (parameterImage p) 2 = clockModeCode p.clockMode ∧
    fieldAt (parameterImage p) 3 3 = p.cycleLength ∧ byteAt (parameterImage p) 6 = polarityCode p.syncPolarity ∧
    byteAt (parameterImage p) 7 = p.syncFilter ∧ fieldAt (parameterImage p) 8 2 = p.syncTolerance ∧
    byteAt (parameterImage p) 10 = p.syncMissLimit ∧ byteAt (parameterImage p) 11 = p.alertMask.toNat) ∧
  (∀ f : ScheduleFields, scheduleFieldsValid f = true → f.phase < 16777216 →
    (fieldsImage f).length = 41 ∧ byteAt (fieldsImage f) 0 = scheduleModeCode f.mode ∧
    byteAt (fieldsImage f) 1 = f.node ∧ (fieldsImage f).getD 2 0 = f.function ∧ fieldAt (fieldsImage f) 3 3 = f.phase ∧
    byteAt (fieldsImage f) 6 = f.divisor ∧ byteAt (fieldsImage f) 7 = f.offset ∧
    byteAt (fieldsImage f) 8 = f.template.length ∧
    (fieldsImage f).drop 9 = f.template ++ List.replicate (32 - f.template.length) 0 ∧
    ∀ k : EntryIndex, loadEntryImage k f = byte k.val :: (fieldsImage f).take (9 + f.template.length)) ∧
  (∀ p : Policy, policyValid p = true → policyOfImage (policyImage p) = some p) ∧
  (∀ (bytes : List Byte) (p : Policy), policyOfImage bytes = some p → policyImage p = bytes ∧ policyValid p = true) ∧
  (∀ k : PolicyKey, k.node ≤ 63 → keyOfImage (keyImage k) = some k) ∧
  (∀ (bytes : List Byte) (k : PolicyKey), keyOfImage bytes = some k → keyImage k = bytes ∧ k.node ≤ 63) ∧
  (∀ p : Parameters, parametersValid p = true → parametersOfImage (parameterImage p) = some p) ∧
  (∀ (bytes : List Byte) (p : Parameters), parametersOfImage bytes = some p →
    parameterImage p = bytes ∧ parametersValid p = true) ∧
  (∀ (k : EntryIndex) (f : ScheduleFields), scheduleFieldsValid f = true → f.phase < 16777216 →
    loadEntryOfImage (loadEntryImage k f) = some (k, f)) ∧
  ∀ (bytes : List Byte) (k : EntryIndex) (f : ScheduleFields), loadEntryOfImage bytes = some (k, f) →
    loadEntryImage k f = bytes ∧ scheduleFieldsValid f = true

/-- Age order (R58, R59, R119, R123): the slots taken oldest first are exactly those that satisfy the test, each once; and while
the sequences of open exchanges are distinct and within half the range of one another, each is older than the next, and a
slot that joins at its admission position keeps such an order. -/
def Obligations.AgeOrder : Prop :=
  (∀ (s : State) (test : Exchange → Bool),
    (s.slotsByAge test).Nodup ∧
      ∀ i, i ∈ s.slotsByAge test ↔ ∃ e, s.slot i = some e ∧ test e = true) ∧
  ∀ (s : State) (base : AdmissionSeq),
    (∀ i e, s.slot i = some e → (e.admissionSeq - base).toNat < 2 ^ 31) →
    (∀ i j e f, s.slot i = some e → s.slot j = some f → e.admissionSeq = f.admissionSeq → i = j) →
    (∀ test : Exchange → Bool,
      (s.slotsByAge test).Pairwise fun i j => olderSeq (s.sequenceOf i) (s.sequenceOf j) = true) ∧
    ∀ (i : Slot) (e : Exchange) (l : List Slot), s.slot i = some e → i ∉ l → (∀ j ∈ l, s.slot j ≠ none) →
      (l.Pairwise fun i j => olderSeq (s.sequenceOf i) (s.sequenceOf j) = true) →
      (insertBefore (s.younger e.admissionSeq) i l).Pairwise fun i j =>
        olderSeq (s.sequenceOf i) (s.sequenceOf j) = true

end
end

