-- ==== Sys2Proof/Laws/State.lean ====
section
/-! SUPPORT. What each update of the state leaves in each field: one lemma for each field, true by definition. The lemmas of
the updates that depend on a condition follow them. -/

namespace Sys2Proof.Machine


/-! ### tally -/

@[simp] theorem State.tally_headPort (s : State) (c : Counter) : (s.tally c).headPort = s.headPort := rfl
@[simp] theorem State.tally_fieldPort (s : State) (c : Counter) : (s.tally c).fieldPort = s.fieldPort := rfl
@[simp] theorem State.tally_intake (s : State) (c : Counter) : (s.tally c).intake = s.intake := rfl
@[simp] theorem State.tally_params (s : State) (c : Counter) : (s.tally c).params = s.params := rfl
@[simp] theorem State.tally_stagedLength (s : State) (c : Counter) : (s.tally c).stagedLength = s.stagedLength := rfl
@[simp] theorem State.tally_flags (s : State) (c : Counter) : (s.tally c).flags = s.flags := rfl
@[simp] theorem State.tally_flagEvent (s : State) (c : Counter) : (s.tally c).flagEvent = s.flagEvent := rfl
@[simp] theorem State.tally_flagsOwed (s : State) (c : Counter) : (s.tally c).flagsOwed = s.flagsOwed := rfl
@[simp] theorem State.tally_counters (s : State) (c : Counter) :
    (s.tally c).counters = s.counters.set (counterPosition c) (s.counters[counterPosition c] + 1) := rfl
@[simp] theorem State.tally_policies (s : State) (c : Counter) : (s.tally c).policies = s.policies := rfl
@[simp] theorem State.tally_slots (s : State) (c : Counter) : (s.tally c).slots = s.slots := rfl
@[simp] theorem State.tally_admissionCounter (s : State) (c : Counter) :
    (s.tally c).admissionCounter = s.admissionCounter := rfl
@[simp] theorem State.tally_pendingOrder (s : State) (c : Counter) : (s.tally c).pendingOrder = s.pendingOrder := rfl
@[simp] theorem State.tally_deferralList (s : State) (c : Counter) : (s.tally c).deferralList = s.deferralList := rfl
@[simp] theorem State.tally_nodes (s : State) (c : Counter) : (s.tally c).nodes = s.nodes := rfl
@[simp] theorem State.tally_scheduleRun (s : State) (c : Counter) : (s.tally c).scheduleRun = s.scheduleRun := rfl
@[simp] theorem State.tally_inFlight (s : State) (c : Counter) : (s.tally c).inFlight = s.inFlight := rfl
@[simp] theorem State.tally_receipts (s : State) (c : Counter) : (s.tally c).receipts = s.receipts := rfl
@[simp] theorem State.tally_store (s : State) (c : Counter) : (s.tally c).store = s.store := rfl
@[simp] theorem State.tally_owedOrder (s : State) (c : Counter) : (s.tally c).owedOrder = s.owedOrder := rfl
@[simp] theorem State.tally_now (s : State) (c : Counter) : (s.tally c).now = s.now := rfl
@[simp] theorem State.tally_phase (s : State) (c : Counter) : (s.tally c).phase = s.phase := rfl
@[simp] theorem State.tally_cycle (s : State) (c : Counter) : (s.tally c).cycle = s.cycle := rfl
@[simp] theorem State.tally_startKind (s : State) (c : Counter) : (s.tally c).startKind = s.startKind := rfl
@[simp] theorem State.tally_missRun (s : State) (c : Counter) : (s.tally c).missRun = s.missRun := rfl
@[simp] theorem State.tally_lossRaised (s : State) (c : Counter) : (s.tally c).lossRaised = s.lossRaised := rfl
@[simp] theorem State.tally_capture (s : State) (c : Counter) : (s.tally c).capture = s.capture := rfl
@[simp] theorem State.tally_sampled (s : State) (c : Counter) : (s.tally c).sampled = s.sampled := rfl
@[simp] theorem State.tally_qualifiedLevel (s : State) (c : Counter) :
    (s.tally c).qualifiedLevel = s.qualifiedLevel := rfl
@[simp] theorem State.tally_syncRun (s : State) (c : Counter) : (s.tally c).syncRun = s.syncRun := rfl
@[simp] theorem State.tally_levelChange (s : State) (c : Counter) : (s.tally c).levelChange = s.levelChange := rfl
@[simp] theorem State.tally_schedule (s : State) (c : Counter) : (s.tally c).schedule = s.schedule := rfl
@[simp] theorem State.tally_delivery (s : State) (c : Counter) : (s.tally c).delivery = s.delivery := rfl
@[simp] theorem State.tally_advanceHeld (s : State) (c : Counter) : (s.tally c).advanceHeld = s.advanceHeld := rfl
@[simp] theorem State.tally_pending (s : State) (c : Counter) : (s.tally c).pending = s.pending := rfl

/-! ### raiseFlag -/

@[simp] theorem State.raiseFlag_headPort (s : State) (f : Flag) : (s.raiseFlag f).headPort = s.headPort := rfl
@[simp] theorem State.raiseFlag_fieldPort (s : State) (f : Flag) : (s.raiseFlag f).fieldPort = s.fieldPort := rfl
@[simp] theorem State.raiseFlag_intake (s : State) (f : Flag) : (s.raiseFlag f).intake = s.intake := rfl
@[simp] theorem State.raiseFlag_params (s : State) (f : Flag) : (s.raiseFlag f).params = s.params := rfl
@[simp] theorem State.raiseFlag_stagedLength (s : State) (f : Flag) :
    (s.raiseFlag f).stagedLength = s.stagedLength := rfl
@[simp] theorem State.raiseFlag_flagEvent (s : State) (f : Flag) :
    (s.raiseFlag f).flagEvent = nextFlagEvent s.flagEvent := rfl
@[simp] theorem State.raiseFlag_flagsOwed (s : State) (f : Flag) :
    (s.raiseFlag f).flagsOwed = (s.flagsOwed || s.params.alertMask.getLsbD (flagNumber f)) := rfl
@[simp] theorem State.raiseFlag_counters (s : State) (f : Flag) : (s.raiseFlag f).counters = s.counters := rfl
@[simp] theorem State.raiseFlag_policies (s : State) (f : Flag) : (s.raiseFlag f).policies = s.policies := rfl
@[simp] theorem State.raiseFlag_slots (s : State) (f : Flag) : (s.raiseFlag f).slots = s.slots := rfl
@[simp] theorem State.raiseFlag_admissionCounter (s : State) (f : Flag) :
    (s.raiseFlag f).admissionCounter = s.admissionCounter := rfl
@[simp] theorem State.raiseFlag_pendingOrder (s : State) (f : Flag) :
    (s.raiseFlag f).pendingOrder = s.pendingOrder := rfl
@[simp] theorem State.raiseFlag_deferralList (s : State) (f : Flag) :
    (s.raiseFlag f).deferralList = s.deferralList := rfl
@[simp] theorem State.raiseFlag_nodes (s : State) (f : Flag) : (s.raiseFlag f).nodes = s.nodes := rfl
@[simp] theorem State.raiseFlag_scheduleRun (s : State) (f : Flag) :
    (s.raiseFlag f).scheduleRun = s.scheduleRun := rfl
@[simp] theorem State.raiseFlag_inFlight (s : State) (f : Flag) : (s.raiseFlag f).inFlight = s.inFlight := rfl
@[simp] theorem State.raiseFlag_receipts (s : State) (f : Flag) : (s.raiseFlag f).receipts = s.receipts := rfl
@[simp] theorem State.raiseFlag_store (s : State) (f : Flag) : (s.raiseFlag f).store = s.store := rfl
@[simp] theorem State.raiseFlag_owedOrder (s : State) (f : Flag) : (s.raiseFlag f).owedOrder = s.owedOrder := rfl
@[simp] theorem State.raiseFlag_now (s : State) (f : Flag) : (s.raiseFlag f).now = s.now := rfl
@[simp] theorem State.raiseFlag_phase (s : State) (f : Flag) : (s.raiseFlag f).phase = s.phase := rfl
@[simp] theorem State.raiseFlag_cycle (s : State) (f : Flag) : (s.raiseFlag f).cycle = s.cycle := rfl
@[simp] theorem State.raiseFlag_startKind (s : State) (f : Flag) : (s.raiseFlag f).startKind = s.startKind := rfl
@[simp] theorem State.raiseFlag_missRun (s : State) (f : Flag) : (s.raiseFlag f).missRun = s.missRun := rfl
@[simp] theorem State.raiseFlag_lossRaised (s : State) (f : Flag) : (s.raiseFlag f).lossRaised = s.lossRaised := rfl
@[simp] theorem State.raiseFlag_capture (s : State) (f : Flag) : (s.raiseFlag f).capture = s.capture := rfl
@[simp] theorem State.raiseFlag_sampled (s : State) (f : Flag) : (s.raiseFlag f).sampled = s.sampled := rfl
@[simp] theorem State.raiseFlag_qualifiedLevel (s : State) (f : Flag) :
    (s.raiseFlag f).qualifiedLevel = s.qualifiedLevel := rfl
@[simp] theorem State.raiseFlag_syncRun (s : State) (f : Flag) : (s.raiseFlag f).syncRun = s.syncRun := rfl
@[simp] theorem State.raiseFlag_levelChange (s : State) (f : Flag) :
    (s.raiseFlag f).levelChange = s.levelChange := rfl
@[simp] theorem State.raiseFlag_schedule (s : State) (f : Flag) : (s.raiseFlag f).schedule = s.schedule := rfl
@[simp] theorem State.raiseFlag_delivery (s : State) (f : Flag) : (s.raiseFlag f).delivery = s.delivery := rfl
@[simp] theorem State.raiseFlag_advanceHeld (s : State) (f : Flag) :
    (s.raiseFlag f).advanceHeld = s.advanceHeld := rfl
@[simp] theorem State.raiseFlag_pending (s : State) (f : Flag) : (s.raiseFlag f).pending = s.pending := rfl

/-! ### setSlot -/

@[simp] theorem State.setSlot_headPort (s : State) (i : Slot) (e : Option Exchange) :
    (s.setSlot i e).headPort = s.headPort := rfl
@[simp] theorem State.setSlot_fieldPort (s : State) (i : Slot) (e : Option Exchange) :
    (s.setSlot i e).fieldPort = s.fieldPort := rfl
@[simp] theorem State.setSlot_intake (s : State) (i : Slot) (e : Option Exchange) :
    (s.setSlot i e).intake = s.intake := rfl
@[simp] theorem State.setSlot_params (s : State) (i : Slot) (e : Option Exchange) :
    (s.setSlot i e).params = s.params := rfl
@[simp] theorem State.setSlot_stagedLength (s : State) (i : Slot) (e : Option Exchange) :
    (s.setSlot i e).stagedLength = s.stagedLength := rfl
@[simp] theorem State.setSlot_flags (s : State) (i : Slot) (e : Option Exchange) :
    (s.setSlot i e).flags = s.flags := rfl
@[simp] theorem State.setSlot_flagEvent (s : State) (i : Slot) (e : Option Exchange) :
    (s.setSlot i e).flagEvent = s.flagEvent := rfl
@[simp] theorem State.setSlot_flagsOwed (s : State) (i : Slot) (e : Option Exchange) :
    (s.setSlot i e).flagsOwed = s.flagsOwed := rfl
@[simp] theorem State.setSlot_counters (s : State) (i : Slot) (e : Option Exchange) :
    (s.setSlot i e).counters = s.counters := rfl
@[simp] theorem State.setSlot_policies (s : State) (i : Slot) (e : Option Exchange) :
    (s.setSlot i e).policies = s.policies := rfl
@[simp] theorem State.setSlot_slots (s : State) (i : Slot) (e : Option Exchange) :
    (s.setSlot i e).slots = s.slots.set i e := rfl
@[simp] theorem State.setSlot_admissionCounter (s : State) (i : Slot) (e : Option Exchange) :
    (s.setSlot i e).admissionCounter = s.admissionCounter := rfl
@[simp] theorem State.setSlot_pendingOrder (s : State) (i : Slot) (e : Option Exchange) :
    (s.setSlot i e).pendingOrder = s.pendingOrder := rfl
@[simp] theorem State.setSlot_deferralList (s : State) (i : Slot) (e : Option Exchange) :
    (s.setSlot i e).deferralList = s.deferralList := rfl
@[simp] theorem State.setSlot_nodes (s : State) (i : Slot) (e : Option Exchange) :
    (s.setSlot i e).nodes = s.nodes := rfl
@[simp] theorem State.setSlot_scheduleRun (s : State) (i : Slot) (e : Option Exchange) :
    (s.setSlot i e).scheduleRun = s.scheduleRun := rfl
@[simp] theorem State.setSlot_inFlight (s : State) (i : Slot) (e : Option Exchange) :
    (s.setSlot i e).inFlight = s.inFlight := rfl
@[simp] theorem State.setSlot_receipts (s : State) (i : Slot) (e : Option Exchange) :
    (s.setSlot i e).receipts = s.receipts := rfl
@[simp] theorem State.setSlot_store (s : State) (i : Slot) (e : Option Exchange) :
    (s.setSlot i e).store = s.store := rfl
@[simp] theorem State.setSlot_owedOrder (s : State) (i : Slot) (e : Option Exchange) :
    (s.setSlot i e).owedOrder = s.owedOrder := rfl
@[simp] theorem State.setSlot_now (s : State) (i : Slot) (e : Option Exchange) : (s.setSlot i e).now = s.now := rfl
@[simp] theorem State.setSlot_phase (s : State) (i : Slot) (e : Option Exchange) :
    (s.setSlot i e).phase = s.phase := rfl
@[simp] theorem State.setSlot_cycle (s : State) (i : Slot) (e : Option Exchange) :
    (s.setSlot i e).cycle = s.cycle := rfl
@[simp] theorem State.setSlot_startKind (s : State) (i : Slot) (e : Option Exchange) :
    (s.setSlot i e).startKind = s.startKind := rfl
@[simp] theorem State.setSlot_missRun (s : State) (i : Slot) (e : Option Exchange) :
    (s.setSlot i e).missRun = s.missRun := rfl
@[simp] theorem State.setSlot_lossRaised (s : State) (i : Slot) (e : Option Exchange) :
    (s.setSlot i e).lossRaised = s.lossRaised := rfl
@[simp] theorem State.setSlot_capture (s : State) (i : Slot) (e : Option Exchange) :
    (s.setSlot i e).capture = s.capture := rfl
@[simp] theorem State.setSlot_sampled (s : State) (i : Slot) (e : Option Exchange) :
    (s.setSlot i e).sampled = s.sampled := rfl
@[simp] theorem State.setSlot_qualifiedLevel (s : State) (i : Slot) (e : Option Exchange) :
    (s.setSlot i e).qualifiedLevel = s.qualifiedLevel := rfl
@[simp] theorem State.setSlot_syncRun (s : State) (i : Slot) (e : Option Exchange) :
    (s.setSlot i e).syncRun = s.syncRun := rfl
@[simp] theorem State.setSlot_levelChange (s : State) (i : Slot) (e : Option Exchange) :
    (s.setSlot i e).levelChange = s.levelChange := rfl
@[simp] theorem State.setSlot_schedule (s : State) (i : Slot) (e : Option Exchange) :
    (s.setSlot i e).schedule = s.schedule := rfl
@[simp] theorem State.setSlot_delivery (s : State) (i : Slot) (e : Option Exchange) :
    (s.setSlot i e).delivery = s.delivery := rfl
@[simp] theorem State.setSlot_advanceHeld (s : State) (i : Slot) (e : Option Exchange) :
    (s.setSlot i e).advanceHeld = s.advanceHeld := rfl
@[simp] theorem State.setSlot_pending (s : State) (i : Slot) (e : Option Exchange) :
    (s.setSlot i e).pending = s.pending := rfl

/-! ### updateNode -/

@[simp] theorem State.updateNode_headPort (s : State) (n : Nat) (f : NodeEntry → NodeEntry) :
    (s.updateNode n f).headPort = s.headPort := rfl
@[simp] theorem State.updateNode_fieldPort (s : State) (n : Nat) (f : NodeEntry → NodeEntry) :
    (s.updateNode n f).fieldPort = s.fieldPort := rfl
@[simp] theorem State.updateNode_intake (s : State) (n : Nat) (f : NodeEntry → NodeEntry) :
    (s.updateNode n f).intake = s.intake := rfl
@[simp] theorem State.updateNode_params (s : State) (n : Nat) (f : NodeEntry → NodeEntry) :
    (s.updateNode n f).params = s.params := rfl
@[simp] theorem State.updateNode_stagedLength (s : State) (n : Nat) (f : NodeEntry → NodeEntry) :
    (s.updateNode n f).stagedLength = s.stagedLength := rfl
@[simp] theorem State.updateNode_flags (s : State) (n : Nat) (f : NodeEntry → NodeEntry) :
    (s.updateNode n f).flags = s.flags := rfl
@[simp] theorem State.updateNode_flagEvent (s : State) (n : Nat) (f : NodeEntry → NodeEntry) :
    (s.updateNode n f).flagEvent = s.flagEvent := rfl
@[simp] theorem State.updateNode_flagsOwed (s : State) (n : Nat) (f : NodeEntry → NodeEntry) :
    (s.updateNode n f).flagsOwed = s.flagsOwed := rfl
@[simp] theorem State.updateNode_counters (s : State) (n : Nat) (f : NodeEntry → NodeEntry) :
    (s.updateNode n f).counters = s.counters := rfl
@[simp] theorem State.updateNode_policies (s : State) (n : Nat) (f : NodeEntry → NodeEntry) :
    (s.updateNode n f).policies = s.policies := rfl
@[simp] theorem State.updateNode_slots (s : State) (n : Nat) (f : NodeEntry → NodeEntry) :
    (s.updateNode n f).slots = s.slots := rfl
@[simp] theorem State.updateNode_admissionCounter (s : State) (n : Nat) (f : NodeEntry → NodeEntry) :
    (s.updateNode n f).admissionCounter = s.admissionCounter := rfl
@[simp] theorem State.updateNode_pendingOrder (s : State) (n : Nat) (f : NodeEntry → NodeEntry) :
    (s.updateNode n f).pendingOrder = s.pendingOrder := rfl
@[simp] theorem State.updateNode_deferralList (s : State) (n : Nat) (f : NodeEntry → NodeEntry) :
    (s.updateNode n f).deferralList = s.deferralList := rfl
@[simp] theorem State.updateNode_nodes (s : State) (n : Nat) (f : NodeEntry → NodeEntry) :
    (s.updateNode n f).nodes = changeNode s.nodes n f := rfl
@[simp] theorem State.updateNode_scheduleRun (s : State) (n : Nat) (f : NodeEntry → NodeEntry) :
    (s.updateNode n f).scheduleRun = s.scheduleRun := rfl
@[simp] theorem State.updateNode_inFlight (s : State) (n : Nat) (f : NodeEntry → NodeEntry) :
    (s.updateNode n f).inFlight = s.inFlight := rfl
@[simp] theorem State.updateNode_receipts (s : State) (n : Nat) (f : NodeEntry → NodeEntry) :
    (s.updateNode n f).receipts = s.receipts := rfl
@[simp] theorem State.updateNode_store (s : State) (n : Nat) (f : NodeEntry → NodeEntry) :
    (s.updateNode n f).store = s.store := rfl
@[simp] theorem State.updateNode_owedOrder (s : State) (n : Nat) (f : NodeEntry → NodeEntry) :
    (s.updateNode n f).owedOrder = s.owedOrder := rfl
@[simp] theorem State.updateNode_now (s : State) (n : Nat) (f : NodeEntry → NodeEntry) :
    (s.updateNode n f).now = s.now := rfl
@[simp] theorem State.updateNode_phase (s : State) (n : Nat) (f : NodeEntry → NodeEntry) :
    (s.updateNode n f).phase = s.phase := rfl
@[simp] theorem State.updateNode_cycle (s : State) (n : Nat) (f : NodeEntry → NodeEntry) :
    (s.updateNode n f).cycle = s.cycle := rfl
@[simp] theorem State.updateNode_startKind (s : State) (n : Nat) (f : NodeEntry → NodeEntry) :
    (s.updateNode n f).startKind = s.startKind := rfl
@[simp] theorem State.updateNode_missRun (s : State) (n : Nat) (f : NodeEntry → NodeEntry) :
    (s.updateNode n f).missRun = s.missRun := rfl
@[simp] theorem State.updateNode_lossRaised (s : State) (n : Nat) (f : NodeEntry → NodeEntry) :
    (s.updateNode n f).lossRaised = s.lossRaised := rfl
@[simp] theorem State.updateNode_capture (s : State) (n : Nat) (f : NodeEntry → NodeEntry) :
    (s.updateNode n f).capture = s.capture := rfl
@[simp] theorem State.updateNode_sampled (s : State) (n : Nat) (f : NodeEntry → NodeEntry) :
    (s.updateNode n f).sampled = s.sampled := rfl
@[simp] theorem State.updateNode_qualifiedLevel (s : State) (n : Nat) (f : NodeEntry → NodeEntry) :
    (s.updateNode n f).qualifiedLevel = s.qualifiedLevel := rfl
@[simp] theorem State.updateNode_syncRun (s : State) (n : Nat) (f : NodeEntry → NodeEntry) :
    (s.updateNode n f).syncRun = s.syncRun := rfl
@[simp] theorem State.updateNode_levelChange (s : State) (n : Nat) (f : NodeEntry → NodeEntry) :
    (s.updateNode n f).levelChange = s.levelChange := rfl
@[simp] theorem State.updateNode_schedule (s : State) (n : Nat) (f : NodeEntry → NodeEntry) :
    (s.updateNode n f).schedule = s.schedule := rfl
@[simp] theorem State.updateNode_delivery (s : State) (n : Nat) (f : NodeEntry → NodeEntry) :
    (s.updateNode n f).delivery = s.delivery := rfl
@[simp] theorem State.updateNode_advanceHeld (s : State) (n : Nat) (f : NodeEntry → NodeEntry) :
    (s.updateNode n f).advanceHeld = s.advanceHeld := rfl
@[simp] theorem State.updateNode_pending (s : State) (n : Nat) (f : NodeEntry → NodeEntry) :
    (s.updateNode n f).pending = s.pending := rfl

/-! ### setNodeState -/

@[simp] theorem State.setNodeState_headPort (s : State) (n : Nat) (st : NodeState) :
    (s.setNodeState n st).headPort = s.headPort := rfl
@[simp] theorem State.setNodeState_fieldPort (s : State) (n : Nat) (st : NodeState) :
    (s.setNodeState n st).fieldPort = s.fieldPort := rfl
@[simp] theorem State.setNodeState_intake (s : State) (n : Nat) (st : NodeState) :
    (s.setNodeState n st).intake = s.intake := rfl
@[simp] theorem State.setNodeState_params (s : State) (n : Nat) (st : NodeState) :
    (s.setNodeState n st).params = s.params := rfl
@[simp] theorem State.setNodeState_stagedLength (s : State) (n : Nat) (st : NodeState) :
    (s.setNodeState n st).stagedLength = s.stagedLength := rfl
@[simp] theorem State.setNodeState_flags (s : State) (n : Nat) (st : NodeState) :
    (s.setNodeState n st).flags = s.flags := rfl
@[simp] theorem State.setNodeState_flagEvent (s : State) (n : Nat) (st : NodeState) :
    (s.setNodeState n st).flagEvent = s.flagEvent := rfl
@[simp] theorem State.setNodeState_flagsOwed (s : State) (n : Nat) (st : NodeState) :
    (s.setNodeState n st).flagsOwed = s.flagsOwed := rfl
@[simp] theorem State.setNodeState_counters (s : State) (n : Nat) (st : NodeState) :
    (s.setNodeState n st).counters = s.counters := rfl
@[simp] theorem State.setNodeState_policies (s : State) (n : Nat) (st : NodeState) :
    (s.setNodeState n st).policies = s.policies := rfl
@[simp] theorem State.setNodeState_slots (s : State) (n : Nat) (st : NodeState) :
    (s.setNodeState n st).slots = s.slots := rfl
@[simp] theorem State.setNodeState_admissionCounter (s : State) (n : Nat) (st : NodeState) :
    (s.setNodeState n st).admissionCounter = s.admissionCounter := rfl
@[simp] theorem State.setNodeState_pendingOrder (s : State) (n : Nat) (st : NodeState) :
    (s.setNodeState n st).pendingOrder = s.pendingOrder := rfl
@[simp] theorem State.setNodeState_deferralList (s : State) (n : Nat) (st : NodeState) :
    (s.setNodeState n st).deferralList = s.deferralList := rfl
@[simp] theorem State.setNodeState_nodes (s : State) (n : Nat) (st : NodeState) :
    (s.setNodeState n st).nodes = changeNode s.nodes n fun e => { e with state := st } := rfl
@[simp] theorem State.setNodeState_scheduleRun (s : State) (n : Nat) (st : NodeState) :
    (s.setNodeState n st).scheduleRun = s.scheduleRun := rfl
@[simp] theorem State.setNodeState_inFlight (s : State) (n : Nat) (st : NodeState) :
    (s.setNodeState n st).inFlight = s.inFlight := rfl
@[simp] theorem State.setNodeState_receipts (s : State) (n : Nat) (st : NodeState) :
    (s.setNodeState n st).receipts = s.receipts := rfl
@[simp] theorem State.setNodeState_store (s : State) (n : Nat) (st : NodeState) :
    (s.setNodeState n st).store = s.store := rfl
@[simp] theorem State.setNodeState_owedOrder (s : State) (n : Nat) (st : NodeState) :
    (s.setNodeState n st).owedOrder = s.owedOrder := rfl
@[simp] theorem State.setNodeState_now (s : State) (n : Nat) (st : NodeState) :
    (s.setNodeState n st).now = s.now := rfl
@[simp] theorem State.setNodeState_phase (s : State) (n : Nat) (st : NodeState) :
    (s.setNodeState n st).phase = s.phase := rfl
@[simp] theorem State.setNodeState_cycle (s : State) (n : Nat) (st : NodeState) :
    (s.setNodeState n st).cycle = s.cycle := rfl
@[simp] theorem State.setNodeState_startKind (s : State) (n : Nat) (st : NodeState) :
    (s.setNodeState n st).startKind = s.startKind := rfl
@[simp] theorem State.setNodeState_missRun (s : State) (n : Nat) (st : NodeState) :
    (s.setNodeState n st).missRun = s.missRun := rfl
@[simp] theorem State.setNodeState_lossRaised (s : State) (n : Nat) (st : NodeState) :
    (s.setNodeState n st).lossRaised = s.lossRaised := rfl
@[simp] theorem State.setNodeState_capture (s : State) (n : Nat) (st : NodeState) :
    (s.setNodeState n st).capture = s.capture := rfl
@[simp] theorem State.setNodeState_sampled (s : State) (n : Nat) (st : NodeState) :
    (s.setNodeState n st).sampled = s.sampled := rfl
@[simp] theorem State.setNodeState_qualifiedLevel (s : State) (n : Nat) (st : NodeState) :
    (s.setNodeState n st).qualifiedLevel = s.qualifiedLevel := rfl
@[simp] theorem State.setNodeState_syncRun (s : State) (n : Nat) (st : NodeState) :
    (s.setNodeState n st).syncRun = s.syncRun := rfl
@[simp] theorem State.setNodeState_levelChange (s : State) (n : Nat) (st : NodeState) :
    (s.setNodeState n st).levelChange = s.levelChange := rfl
@[simp] theorem State.setNodeState_schedule (s : State) (n : Nat) (st : NodeState) :
    (s.setNodeState n st).schedule = s.schedule := rfl
@[simp] theorem State.setNodeState_delivery (s : State) (n : Nat) (st : NodeState) :
    (s.setNodeState n st).delivery = s.delivery := rfl
@[simp] theorem State.setNodeState_advanceHeld (s : State) (n : Nat) (st : NodeState) :
    (s.setNodeState n st).advanceHeld = s.advanceHeld := rfl
@[simp] theorem State.setNodeState_pending (s : State) (n : Nat) (st : NodeState) :
    (s.setNodeState n st).pending = s.pending := rfl

/-! ### noteLatency -/

@[simp] theorem State.noteLatency_headPort (s : State) (n l : Nat) : (s.noteLatency n l).headPort = s.headPort := rfl
@[simp] theorem State.noteLatency_fieldPort (s : State) (n l : Nat) :
    (s.noteLatency n l).fieldPort = s.fieldPort := rfl
@[simp] theorem State.noteLatency_intake (s : State) (n l : Nat) : (s.noteLatency n l).intake = s.intake := rfl
@[simp] theorem State.noteLatency_params (s : State) (n l : Nat) : (s.noteLatency n l).params = s.params := rfl
@[simp] theorem State.noteLatency_stagedLength (s : State) (n l : Nat) :
    (s.noteLatency n l).stagedLength = s.stagedLength := rfl
@[simp] theorem State.noteLatency_flags (s : State) (n l : Nat) : (s.noteLatency n l).flags = s.flags := rfl
@[simp] theorem State.noteLatency_flagEvent (s : State) (n l : Nat) :
    (s.noteLatency n l).flagEvent = s.flagEvent := rfl
@[simp] theorem State.noteLatency_flagsOwed (s : State) (n l : Nat) :
    (s.noteLatency n l).flagsOwed = s.flagsOwed := rfl
@[simp] theorem State.noteLatency_counters (s : State) (n l : Nat) : (s.noteLatency n l).counters = s.counters := rfl
@[simp] theorem State.noteLatency_policies (s : State) (n l : Nat) : (s.noteLatency n l).policies = s.policies := rfl
@[simp] theorem State.noteLatency_slots (s : State) (n l : Nat) : (s.noteLatency n l).slots = s.slots := rfl
@[simp] theorem State.noteLatency_admissionCounter (s : State) (n l : Nat) :
    (s.noteLatency n l).admissionCounter = s.admissionCounter := rfl
@[simp] theorem State.noteLatency_pendingOrder (s : State) (n l : Nat) :
    (s.noteLatency n l).pendingOrder = s.pendingOrder := rfl
@[simp] theorem State.noteLatency_deferralList (s : State) (n l : Nat) :
    (s.noteLatency n l).deferralList = s.deferralList := rfl
@[simp] theorem State.noteLatency_scheduleRun (s : State) (n l : Nat) :
    (s.noteLatency n l).scheduleRun = s.scheduleRun := rfl
@[simp] theorem State.noteLatency_inFlight (s : State) (n l : Nat) : (s.noteLatency n l).inFlight = s.inFlight := rfl
@[simp] theorem State.noteLatency_receipts (s : State) (n l : Nat) : (s.noteLatency n l).receipts = s.receipts := rfl
@[simp] theorem State.noteLatency_store (s : State) (n l : Nat) : (s.noteLatency n l).store = s.store := rfl
@[simp] theorem State.noteLatency_owedOrder (s : State) (n l : Nat) :
    (s.noteLatency n l).owedOrder = s.owedOrder := rfl
@[simp] theorem State.noteLatency_now (s : State) (n l : Nat) : (s.noteLatency n l).now = s.now := rfl
@[simp] theorem State.noteLatency_phase (s : State) (n l : Nat) : (s.noteLatency n l).phase = s.phase := rfl
@[simp] theorem State.noteLatency_cycle (s : State) (n l : Nat) : (s.noteLatency n l).cycle = s.cycle := rfl
@[simp] theorem State.noteLatency_startKind (s : State) (n l : Nat) :
    (s.noteLatency n l).startKind = s.startKind := rfl
@[simp] theorem State.noteLatency_missRun (s : State) (n l : Nat) : (s.noteLatency n l).missRun = s.missRun := rfl
@[simp] theorem State.noteLatency_lossRaised (s : State) (n l : Nat) :
    (s.noteLatency n l).lossRaised = s.lossRaised := rfl
@[simp] theorem State.noteLatency_capture (s : State) (n l : Nat) : (s.noteLatency n l).capture = s.capture := rfl
@[simp] theorem State.noteLatency_sampled (s : State) (n l : Nat) : (s.noteLatency n l).sampled = s.sampled := rfl
@[simp] theorem State.noteLatency_qualifiedLevel (s : State) (n l : Nat) :
    (s.noteLatency n l).qualifiedLevel = s.qualifiedLevel := rfl
@[simp] theorem State.noteLatency_syncRun (s : State) (n l : Nat) : (s.noteLatency n l).syncRun = s.syncRun := rfl
@[simp] theorem State.noteLatency_levelChange (s : State) (n l : Nat) :
    (s.noteLatency n l).levelChange = s.levelChange := rfl
@[simp] theorem State.noteLatency_schedule (s : State) (n l : Nat) : (s.noteLatency n l).schedule = s.schedule := rfl
@[simp] theorem State.noteLatency_delivery (s : State) (n l : Nat) : (s.noteLatency n l).delivery = s.delivery := rfl
@[simp] theorem State.noteLatency_advanceHeld (s : State) (n l : Nat) :
    (s.noteLatency n l).advanceHeld = s.advanceHeld := rfl
@[simp] theorem State.noteLatency_pending (s : State) (n l : Nat) : (s.noteLatency n l).pending = s.pending := rfl

/-! ### openExchange -/

@[simp] theorem State.openExchange_headPort (s : State) (i : Slot) (o : Origin) (n : Nat) (f : Byte) (d : List Byte) (p : Policy) :
    (s.openExchange i o n f d p).headPort = s.headPort := rfl
@[simp] theorem State.openExchange_fieldPort (s : State) (i : Slot) (o : Origin) (n : Nat) (f : Byte) (d : List Byte) (p : Policy) :
    (s.openExchange i o n f d p).fieldPort = s.fieldPort := rfl
@[simp] theorem State.openExchange_intake (s : State) (i : Slot) (o : Origin) (n : Nat) (f : Byte) (d : List Byte) (p : Policy) :
    (s.openExchange i o n f d p).intake = s.intake := rfl
@[simp] theorem State.openExchange_params (s : State) (i : Slot) (o : Origin) (n : Nat) (f : Byte) (d : List Byte) (p : Policy) :
    (s.openExchange i o n f d p).params = s.params := rfl
@[simp] theorem State.openExchange_stagedLength (s : State) (i : Slot) (o : Origin) (n : Nat) (f : Byte) (d : List Byte) (p : Policy) :
    (s.openExchange i o n f d p).stagedLength = s.stagedLength := rfl
@[simp] theorem State.openExchange_flags (s : State) (i : Slot) (o : Origin) (n : Nat) (f : Byte) (d : List Byte) (p : Policy) :
    (s.openExchange i o n f d p).flags = s.flags := rfl
@[simp] theorem State.openExchange_flagEvent (s : State) (i : Slot) (o : Origin) (n : Nat) (f : Byte) (d : List Byte) (p : Policy) :
    (s.openExchange i o n f d p).flagEvent = s.flagEvent := rfl
@[simp] theorem State.openExchange_flagsOwed (s : State) (i : Slot) (o : Origin) (n : Nat) (f : Byte) (d : List Byte) (p : Policy) :
    (s.openExchange i o n f d p).flagsOwed = s.flagsOwed := rfl
@[simp] theorem State.openExchange_counters (s : State) (i : Slot) (o : Origin) (n : Nat) (f : Byte) (d : List Byte) (p : Policy) :
    (s.openExchange i o n f d p).counters = s.counters := rfl
@[simp] theorem State.openExchange_policies (s : State) (i : Slot) (o : Origin) (n : Nat) (f : Byte) (d : List Byte) (p : Policy) :
    (s.openExchange i o n f d p).policies = s.policies := rfl
@[simp] theorem State.openExchange_slots (s : State) (i : Slot) (o : Origin) (n : Nat) (f : Byte) (d : List Byte) (p : Policy) :
    (s.openExchange i o n f d p).slots = s.slots.set i (some (admittedRecord s o n f d p)) := rfl
@[simp] theorem State.openExchange_admissionCounter (s : State) (i : Slot) (o : Origin) (n : Nat) (f : Byte) (d : List Byte) (p : Policy) :
    (s.openExchange i o n f d p).admissionCounter = s.admissionCounter + 1 := rfl
@[simp] theorem State.openExchange_pendingOrder (s : State) (i : Slot) (o : Origin) (n : Nat) (f : Byte) (d : List Byte) (p : Policy) :
    (s.openExchange i o n f d p).pendingOrder = s.pendingOrder ++ [i] := rfl
@[simp] theorem State.openExchange_deferralList (s : State) (i : Slot) (o : Origin) (n : Nat) (f : Byte) (d : List Byte) (p : Policy) :
    (s.openExchange i o n f d p).deferralList = s.deferralList := rfl
@[simp] theorem State.openExchange_nodes (s : State) (i : Slot) (o : Origin) (n : Nat) (f : Byte) (d : List Byte) (p : Policy) :
    (s.openExchange i o n f d p).nodes = s.nodes := rfl
@[simp] theorem State.openExchange_scheduleRun (s : State) (i : Slot) (o : Origin) (n : Nat) (f : Byte) (d : List Byte) (p : Policy) :
    (s.openExchange i o n f d p).scheduleRun = s.scheduleRun := rfl
@[simp] theorem State.openExchange_inFlight (s : State) (i : Slot) (o : Origin) (n : Nat) (f : Byte) (d : List Byte) (p : Policy) :
    (s.openExchange i o n f d p).inFlight = s.inFlight := rfl
@[simp] theorem State.openExchange_receipts (s : State) (i : Slot) (o : Origin) (n : Nat) (f : Byte) (d : List Byte) (p : Policy) :
    (s.openExchange i o n f d p).receipts = s.receipts := rfl
@[simp] theorem State.openExchange_store (s : State) (i : Slot) (o : Origin) (n : Nat) (f : Byte) (d : List Byte) (p : Policy) :
    (s.openExchange i o n f d p).store = s.store := rfl
@[simp] theorem State.openExchange_owedOrder (s : State) (i : Slot) (o : Origin) (n : Nat) (f : Byte) (d : List Byte) (p : Policy) :
    (s.openExchange i o n f d p).owedOrder = s.owedOrder := rfl
@[simp] theorem State.openExchange_now (s : State) (i : Slot) (o : Origin) (n : Nat) (f : Byte) (d : List Byte) (p : Policy) :
    (s.openExchange i o n f d p).now = s.now := rfl
@[simp] theorem State.openExchange_phase (s : State) (i : Slot) (o : Origin) (n : Nat) (f : Byte) (d : List Byte) (p : Policy) :
    (s.openExchange i o n f d p).phase = s.phase := rfl
@[simp] theorem State.openExchange_cycle (s : State) (i : Slot) (o : Origin) (n : Nat) (f : Byte) (d : List Byte) (p : Policy) :
    (s.openExchange i o n f d p).cycle = s.cycle := rfl
@[simp] theorem State.openExchange_startKind (s : State) (i : Slot) (o : Origin) (n : Nat) (f : Byte) (d : List Byte) (p : Policy) :
    (s.openExchange i o n f d p).startKind = s.startKind := rfl
@[simp] theorem State.openExchange_missRun (s : State) (i : Slot) (o : Origin) (n : Nat) (f : Byte) (d : List Byte) (p : Policy) :
    (s.openExchange i o n f d p).missRun = s.missRun := rfl
@[simp] theorem State.openExchange_lossRaised (s : State) (i : Slot) (o : Origin) (n : Nat) (f : Byte) (d : List Byte) (p : Policy) :
    (s.openExchange i o n f d p).lossRaised = s.lossRaised := rfl
@[simp] theorem State.openExchange_capture (s : State) (i : Slot) (o : Origin) (n : Nat) (f : Byte) (d : List Byte) (p : Policy) :
    (s.openExchange i o n f d p).capture = s.capture := rfl
@[simp] theorem State.openExchange_sampled (s : State) (i : Slot) (o : Origin) (n : Nat) (f : Byte) (d : List Byte) (p : Policy) :
    (s.openExchange i o n f d p).sampled = s.sampled := rfl
@[simp] theorem State.openExchange_qualifiedLevel (s : State) (i : Slot) (o : Origin) (n : Nat) (f : Byte) (d : List Byte) (p : Policy) :
    (s.openExchange i o n f d p).qualifiedLevel = s.qualifiedLevel := rfl
@[simp] theorem State.openExchange_syncRun (s : State) (i : Slot) (o : Origin) (n : Nat) (f : Byte) (d : List Byte) (p : Policy) :
    (s.openExchange i o n f d p).syncRun = s.syncRun := rfl
@[simp] theorem State.openExchange_levelChange (s : State) (i : Slot) (o : Origin) (n : Nat) (f : Byte) (d : List Byte) (p : Policy) :
    (s.openExchange i o n f d p).levelChange = s.levelChange := rfl
@[simp] theorem State.openExchange_schedule (s : State) (i : Slot) (o : Origin) (n : Nat) (f : Byte) (d : List Byte) (p : Policy) :
    (s.openExchange i o n f d p).schedule = s.schedule := rfl
@[simp] theorem State.openExchange_delivery (s : State) (i : Slot) (o : Origin) (n : Nat) (f : Byte) (d : List Byte) (p : Policy) :
    (s.openExchange i o n f d p).delivery = s.delivery := rfl
@[simp] theorem State.openExchange_advanceHeld (s : State) (i : Slot) (o : Origin) (n : Nat) (f : Byte) (d : List Byte) (p : Policy) :
    (s.openExchange i o n f d p).advanceHeld = s.advanceHeld := rfl
@[simp] theorem State.openExchange_pending (s : State) (i : Slot) (o : Origin) (n : Nat) (f : Byte) (d : List Byte) (p : Policy) :
    (s.openExchange i o n f d p).pending = s.pending := rfl

/-! ### join -/

@[simp] theorem State.join_headPort (s : State) (x : Item) : (s.join x).headPort = s.headPort := rfl
@[simp] theorem State.join_fieldPort (s : State) (x : Item) : (s.join x).fieldPort = s.fieldPort := rfl
@[simp] theorem State.join_intake (s : State) (x : Item) : (s.join x).intake = s.intake := rfl
@[simp] theorem State.join_params (s : State) (x : Item) : (s.join x).params = s.params := rfl
@[simp] theorem State.join_stagedLength (s : State) (x : Item) : (s.join x).stagedLength = s.stagedLength := rfl
@[simp] theorem State.join_flags (s : State) (x : Item) : (s.join x).flags = s.flags := rfl
@[simp] theorem State.join_flagEvent (s : State) (x : Item) : (s.join x).flagEvent = s.flagEvent := rfl
@[simp] theorem State.join_flagsOwed (s : State) (x : Item) : (s.join x).flagsOwed = s.flagsOwed := rfl
@[simp] theorem State.join_counters (s : State) (x : Item) : (s.join x).counters = s.counters := rfl
@[simp] theorem State.join_policies (s : State) (x : Item) : (s.join x).policies = s.policies := rfl
@[simp] theorem State.join_slots (s : State) (x : Item) : (s.join x).slots = s.slots := rfl
@[simp] theorem State.join_admissionCounter (s : State) (x : Item) :
    (s.join x).admissionCounter = s.admissionCounter := rfl
@[simp] theorem State.join_pendingOrder (s : State) (x : Item) : (s.join x).pendingOrder = s.pendingOrder := rfl
@[simp] theorem State.join_deferralList (s : State) (x : Item) : (s.join x).deferralList = s.deferralList := rfl
@[simp] theorem State.join_nodes (s : State) (x : Item) : (s.join x).nodes = s.nodes := rfl
@[simp] theorem State.join_scheduleRun (s : State) (x : Item) : (s.join x).scheduleRun = s.scheduleRun := rfl
@[simp] theorem State.join_inFlight (s : State) (x : Item) : (s.join x).inFlight = s.inFlight := rfl
@[simp] theorem State.join_receipts (s : State) (x : Item) : (s.join x).receipts = s.receipts := rfl
@[simp] theorem State.join_store (s : State) (x : Item) : (s.join x).store = s.store := rfl
@[simp] theorem State.join_owedOrder (s : State) (x : Item) : (s.join x).owedOrder = s.owedOrder := rfl
@[simp] theorem State.join_now (s : State) (x : Item) : (s.join x).now = s.now := rfl
@[simp] theorem State.join_phase (s : State) (x : Item) : (s.join x).phase = s.phase := rfl
@[simp] theorem State.join_cycle (s : State) (x : Item) : (s.join x).cycle = s.cycle := rfl
@[simp] theorem State.join_startKind (s : State) (x : Item) : (s.join x).startKind = s.startKind := rfl
@[simp] theorem State.join_missRun (s : State) (x : Item) : (s.join x).missRun = s.missRun := rfl
@[simp] theorem State.join_lossRaised (s : State) (x : Item) : (s.join x).lossRaised = s.lossRaised := rfl
@[simp] theorem State.join_capture (s : State) (x : Item) : (s.join x).capture = s.capture := rfl
@[simp] theorem State.join_sampled (s : State) (x : Item) : (s.join x).sampled = s.sampled := rfl
@[simp] theorem State.join_qualifiedLevel (s : State) (x : Item) : (s.join x).qualifiedLevel = s.qualifiedLevel := rfl
@[simp] theorem State.join_syncRun (s : State) (x : Item) : (s.join x).syncRun = s.syncRun := rfl
@[simp] theorem State.join_levelChange (s : State) (x : Item) : (s.join x).levelChange = s.levelChange := rfl
@[simp] theorem State.join_schedule (s : State) (x : Item) : (s.join x).schedule = s.schedule := rfl
@[simp] theorem State.join_delivery (s : State) (x : Item) : (s.join x).delivery = s.delivery ++ [x] := rfl
@[simp] theorem State.join_advanceHeld (s : State) (x : Item) : (s.join x).advanceHeld = s.advanceHeld := rfl
@[simp] theorem State.join_pending (s : State) (x : Item) : (s.join x).pending = s.pending := rfl

/-! ### place -/

@[simp] theorem State.place_headPort (s : State) (f : Frame) : (s.place f).headPort = s.headPort := rfl
@[simp] theorem State.place_fieldPort (s : State) (f : Frame) : (s.place f).fieldPort = s.fieldPort := rfl
@[simp] theorem State.place_intake (s : State) (f : Frame) : (s.place f).intake = s.intake := rfl
@[simp] theorem State.place_params (s : State) (f : Frame) : (s.place f).params = s.params := rfl
@[simp] theorem State.place_stagedLength (s : State) (f : Frame) : (s.place f).stagedLength = s.stagedLength := rfl
@[simp] theorem State.place_flags (s : State) (f : Frame) : (s.place f).flags = s.flags := rfl
@[simp] theorem State.place_flagEvent (s : State) (f : Frame) : (s.place f).flagEvent = s.flagEvent := rfl
@[simp] theorem State.place_flagsOwed (s : State) (f : Frame) : (s.place f).flagsOwed = s.flagsOwed := rfl
@[simp] theorem State.place_counters (s : State) (f : Frame) : (s.place f).counters = s.counters := rfl
@[simp] theorem State.place_policies (s : State) (f : Frame) : (s.place f).policies = s.policies := rfl
@[simp] theorem State.place_slots (s : State) (f : Frame) : (s.place f).slots = s.slots := rfl
@[simp] theorem State.place_admissionCounter (s : State) (f : Frame) :
    (s.place f).admissionCounter = s.admissionCounter := rfl
@[simp] theorem State.place_pendingOrder (s : State) (f : Frame) : (s.place f).pendingOrder = s.pendingOrder := rfl
@[simp] theorem State.place_deferralList (s : State) (f : Frame) : (s.place f).deferralList = s.deferralList := rfl
@[simp] theorem State.place_nodes (s : State) (f : Frame) : (s.place f).nodes = s.nodes := rfl
@[simp] theorem State.place_scheduleRun (s : State) (f : Frame) : (s.place f).scheduleRun = s.scheduleRun := rfl
@[simp] theorem State.place_inFlight (s : State) (f : Frame) : (s.place f).inFlight = s.inFlight := rfl
@[simp] theorem State.place_receipts (s : State) (f : Frame) : (s.place f).receipts = s.receipts := rfl
@[simp] theorem State.place_store (s : State) (f : Frame) : (s.place f).store = s.store := rfl
@[simp] theorem State.place_owedOrder (s : State) (f : Frame) : (s.place f).owedOrder = s.owedOrder := rfl
@[simp] theorem State.place_now (s : State) (f : Frame) : (s.place f).now = s.now := rfl
@[simp] theorem State.place_phase (s : State) (f : Frame) : (s.place f).phase = s.phase := rfl
@[simp] theorem State.place_cycle (s : State) (f : Frame) : (s.place f).cycle = s.cycle := rfl
@[simp] theorem State.place_startKind (s : State) (f : Frame) : (s.place f).startKind = s.startKind := rfl
@[simp] theorem State.place_missRun (s : State) (f : Frame) : (s.place f).missRun = s.missRun := rfl
@[simp] theorem State.place_lossRaised (s : State) (f : Frame) : (s.place f).lossRaised = s.lossRaised := rfl
@[simp] theorem State.place_capture (s : State) (f : Frame) : (s.place f).capture = s.capture := rfl
@[simp] theorem State.place_sampled (s : State) (f : Frame) : (s.place f).sampled = s.sampled := rfl
@[simp] theorem State.place_qualifiedLevel (s : State) (f : Frame) :
    (s.place f).qualifiedLevel = s.qualifiedLevel := rfl
@[simp] theorem State.place_syncRun (s : State) (f : Frame) : (s.place f).syncRun = s.syncRun := rfl
@[simp] theorem State.place_levelChange (s : State) (f : Frame) : (s.place f).levelChange = s.levelChange := rfl
@[simp] theorem State.place_schedule (s : State) (f : Frame) : (s.place f).schedule = s.schedule := rfl
@[simp] theorem State.place_delivery (s : State) (f : Frame) :
    (s.place f).delivery = s.delivery ++ [.control f] := rfl
@[simp] theorem State.place_advanceHeld (s : State) (f : Frame) : (s.place f).advanceHeld = s.advanceHeld := rfl
@[simp] theorem State.place_pending (s : State) (f : Frame) : (s.place f).pending = s.pending := rfl

/-! ### conclude -/

@[simp] theorem State.conclude_headPort (s : State) (i : Slot) (e : Exchange) (o : OutcomeCode) :
    (s.conclude i e o).headPort = s.headPort := rfl
@[simp] theorem State.conclude_fieldPort (s : State) (i : Slot) (e : Exchange) (o : OutcomeCode) :
    (s.conclude i e o).fieldPort = s.fieldPort := rfl
@[simp] theorem State.conclude_intake (s : State) (i : Slot) (e : Exchange) (o : OutcomeCode) :
    (s.conclude i e o).intake = s.intake := rfl
@[simp] theorem State.conclude_params (s : State) (i : Slot) (e : Exchange) (o : OutcomeCode) :
    (s.conclude i e o).params = s.params := rfl
@[simp] theorem State.conclude_stagedLength (s : State) (i : Slot) (e : Exchange) (o : OutcomeCode) :
    (s.conclude i e o).stagedLength = s.stagedLength := rfl
@[simp] theorem State.conclude_flags (s : State) (i : Slot) (e : Exchange) (o : OutcomeCode) :
    (s.conclude i e o).flags = s.flags := rfl
@[simp] theorem State.conclude_flagEvent (s : State) (i : Slot) (e : Exchange) (o : OutcomeCode) :
    (s.conclude i e o).flagEvent = s.flagEvent := rfl
@[simp] theorem State.conclude_flagsOwed (s : State) (i : Slot) (e : Exchange) (o : OutcomeCode) :
    (s.conclude i e o).flagsOwed = s.flagsOwed := rfl
@[simp] theorem State.conclude_counters (s : State) (i : Slot) (e : Exchange) (o : OutcomeCode) :
    (s.conclude i e o).counters = (s.tally (.outcomes o)).counters := rfl
@[simp] theorem State.conclude_policies (s : State) (i : Slot) (e : Exchange) (o : OutcomeCode) :
    (s.conclude i e o).policies = s.policies := rfl
@[simp] theorem State.conclude_slots (s : State) (i : Slot) (e : Exchange) (o : OutcomeCode) :
    (s.conclude i e o).slots = s.slots.set i (some (concludedRecord e o)) := rfl
@[simp] theorem State.conclude_admissionCounter (s : State) (i : Slot) (e : Exchange) (o : OutcomeCode) :
    (s.conclude i e o).admissionCounter = s.admissionCounter := rfl
@[simp] theorem State.conclude_pendingOrder (s : State) (i : Slot) (e : Exchange) (o : OutcomeCode) :
    (s.conclude i e o).pendingOrder = s.pendingOrder.filter (· != i) := rfl
@[simp] theorem State.conclude_deferralList (s : State) (i : Slot) (e : Exchange) (o : OutcomeCode) :
    (s.conclude i e o).deferralList = s.deferralList.filter (· != i) := rfl
@[simp] theorem State.conclude_nodes (s : State) (i : Slot) (e : Exchange) (o : OutcomeCode) :
    (s.conclude i e o).nodes = s.nodes := rfl
@[simp] theorem State.conclude_scheduleRun (s : State) (i : Slot) (e : Exchange) (o : OutcomeCode) :
    (s.conclude i e o).scheduleRun = s.scheduleRun := rfl
@[simp] theorem State.conclude_inFlight (s : State) (i : Slot) (e : Exchange) (o : OutcomeCode) :
    (s.conclude i e o).inFlight = s.inFlight := rfl
@[simp] theorem State.conclude_receipts (s : State) (i : Slot) (e : Exchange) (o : OutcomeCode) :
    (s.conclude i e o).receipts = s.receipts := rfl
@[simp] theorem State.conclude_store (s : State) (i : Slot) (e : Exchange) (o : OutcomeCode) :
    (s.conclude i e o).store = s.store := rfl
@[simp] theorem State.conclude_owedOrder (s : State) (i : Slot) (e : Exchange) (o : OutcomeCode) :
    (s.conclude i e o).owedOrder = s.owedOrder := rfl
@[simp] theorem State.conclude_now (s : State) (i : Slot) (e : Exchange) (o : OutcomeCode) :
    (s.conclude i e o).now = s.now := rfl
@[simp] theorem State.conclude_phase (s : State) (i : Slot) (e : Exchange) (o : OutcomeCode) :
    (s.conclude i e o).phase = s.phase := rfl
@[simp] theorem State.conclude_cycle (s : State) (i : Slot) (e : Exchange) (o : OutcomeCode) :
    (s.conclude i e o).cycle = s.cycle := rfl
@[simp] theorem State.conclude_startKind (s : State) (i : Slot) (e : Exchange) (o : OutcomeCode) :
    (s.conclude i e o).startKind = s.startKind := rfl
@[simp] theorem State.conclude_missRun (s : State) (i : Slot) (e : Exchange) (o : OutcomeCode) :
    (s.conclude i e o).missRun = s.missRun := rfl
@[simp] theorem State.conclude_lossRaised (s : State) (i : Slot) (e : Exchange) (o : OutcomeCode) :
    (s.conclude i e o).lossRaised = s.lossRaised := rfl
@[simp] theorem State.conclude_capture (s : State) (i : Slot) (e : Exchange) (o : OutcomeCode) :
    (s.conclude i e o).capture = s.capture := rfl
@[simp] theorem State.conclude_sampled (s : State) (i : Slot) (e : Exchange) (o : OutcomeCode) :
    (s.conclude i e o).sampled = s.sampled := rfl
@[simp] theorem State.conclude_qualifiedLevel (s : State) (i : Slot) (e : Exchange) (o : OutcomeCode) :
    (s.conclude i e o).qualifiedLevel = s.qualifiedLevel := rfl
@[simp] theorem State.conclude_syncRun (s : State) (i : Slot) (e : Exchange) (o : OutcomeCode) :
    (s.conclude i e o).syncRun = s.syncRun := rfl
@[simp] theorem State.conclude_levelChange (s : State) (i : Slot) (e : Exchange) (o : OutcomeCode) :
    (s.conclude i e o).levelChange = s.levelChange := rfl
@[simp] theorem State.conclude_schedule (s : State) (i : Slot) (e : Exchange) (o : OutcomeCode) :
    (s.conclude i e o).schedule = s.schedule := rfl
@[simp] theorem State.conclude_delivery (s : State) (i : Slot) (e : Exchange) (o : OutcomeCode) :
    (s.conclude i e o).delivery = s.delivery ++ [.conclusion i] := rfl
@[simp] theorem State.conclude_advanceHeld (s : State) (i : Slot) (e : Exchange) (o : OutcomeCode) :
    (s.conclude i e o).advanceHeld = s.advanceHeld := rfl
@[simp] theorem State.conclude_pending (s : State) (i : Slot) (e : Exchange) (o : OutcomeCode) :
    (s.conclude i e o).pending = s.pending := rfl

/-! ### becomeDeferred -/

@[simp] theorem State.becomeDeferred_headPort (s : State) (i : Slot) (e : Exchange) (due : Mono) :
    (s.becomeDeferred i e due).headPort = s.headPort := rfl
@[simp] theorem State.becomeDeferred_fieldPort (s : State) (i : Slot) (e : Exchange) (due : Mono) :
    (s.becomeDeferred i e due).fieldPort = s.fieldPort := rfl
@[simp] theorem State.becomeDeferred_intake (s : State) (i : Slot) (e : Exchange) (due : Mono) :
    (s.becomeDeferred i e due).intake = s.intake := rfl
@[simp] theorem State.becomeDeferred_params (s : State) (i : Slot) (e : Exchange) (due : Mono) :
    (s.becomeDeferred i e due).params = s.params := rfl
@[simp] theorem State.becomeDeferred_stagedLength (s : State) (i : Slot) (e : Exchange) (due : Mono) :
    (s.becomeDeferred i e due).stagedLength = s.stagedLength := rfl
@[simp] theorem State.becomeDeferred_flags (s : State) (i : Slot) (e : Exchange) (due : Mono) :
    (s.becomeDeferred i e due).flags = s.flags := rfl
@[simp] theorem State.becomeDeferred_flagEvent (s : State) (i : Slot) (e : Exchange) (due : Mono) :
    (s.becomeDeferred i e due).flagEvent = s.flagEvent := rfl
@[simp] theorem State.becomeDeferred_flagsOwed (s : State) (i : Slot) (e : Exchange) (due : Mono) :
    (s.becomeDeferred i e due).flagsOwed = s.flagsOwed := rfl
@[simp] theorem State.becomeDeferred_counters (s : State) (i : Slot) (e : Exchange) (due : Mono) :
    (s.becomeDeferred i e due).counters = s.counters := rfl
@[simp] theorem State.becomeDeferred_policies (s : State) (i : Slot) (e : Exchange) (due : Mono) :
    (s.becomeDeferred i e due).policies = s.policies := rfl
@[simp] theorem State.becomeDeferred_slots (s : State) (i : Slot) (e : Exchange) (due : Mono) :
    (s.becomeDeferred i e due).slots = s.slots.set i (some { e with state := .deferred, answerDue := none, reissueDue := some due }) := rfl
@[simp] theorem State.becomeDeferred_admissionCounter (s : State) (i : Slot) (e : Exchange) (due : Mono) :
    (s.becomeDeferred i e due).admissionCounter = s.admissionCounter := rfl
@[simp] theorem State.becomeDeferred_pendingOrder (s : State) (i : Slot) (e : Exchange) (due : Mono) :
    (s.becomeDeferred i e due).pendingOrder = s.pendingOrder := rfl
@[simp] theorem State.becomeDeferred_deferralList (s : State) (i : Slot) (e : Exchange) (due : Mono) :
    (s.becomeDeferred i e due).deferralList = s.deferralWith i due e.admissionSeq := rfl
@[simp] theorem State.becomeDeferred_nodes (s : State) (i : Slot) (e : Exchange) (due : Mono) :
    (s.becomeDeferred i e due).nodes = (s.setNodeState e.node (.held i)).nodes := rfl
@[simp] theorem State.becomeDeferred_scheduleRun (s : State) (i : Slot) (e : Exchange) (due : Mono) :
    (s.becomeDeferred i e due).scheduleRun = s.scheduleRun := rfl
@[simp] theorem State.becomeDeferred_inFlight (s : State) (i : Slot) (e : Exchange) (due : Mono) :
    (s.becomeDeferred i e due).inFlight = s.inFlight := rfl
@[simp] theorem State.becomeDeferred_receipts (s : State) (i : Slot) (e : Exchange) (due : Mono) :
    (s.becomeDeferred i e due).receipts = s.receipts := rfl
@[simp] theorem State.becomeDeferred_store (s : State) (i : Slot) (e : Exchange) (due : Mono) :
    (s.becomeDeferred i e due).store = s.store := rfl
@[simp] theorem State.becomeDeferred_owedOrder (s : State) (i : Slot) (e : Exchange) (due : Mono) :
    (s.becomeDeferred i e due).owedOrder = s.owedOrder := rfl
@[simp] theorem State.becomeDeferred_now (s : State) (i : Slot) (e : Exchange) (due : Mono) :
    (s.becomeDeferred i e due).now = s.now := rfl
@[simp] theorem State.becomeDeferred_phase (s : State) (i : Slot) (e : Exchange) (due : Mono) :
    (s.becomeDeferred i e due).phase = s.phase := rfl
@[simp] theorem State.becomeDeferred_cycle (s : State) (i : Slot) (e : Exchange) (due : Mono) :
    (s.becomeDeferred i e due).cycle = s.cycle := rfl
@[simp] theorem State.becomeDeferred_startKind (s : State) (i : Slot) (e : Exchange) (due : Mono) :
    (s.becomeDeferred i e due).startKind = s.startKind := rfl
@[simp] theorem State.becomeDeferred_missRun (s : State) (i : Slot) (e : Exchange) (due : Mono) :
    (s.becomeDeferred i e due).missRun = s.missRun := rfl
@[simp] theorem State.becomeDeferred_lossRaised (s : State) (i : Slot) (e : Exchange) (due : Mono) :
    (s.becomeDeferred i e due).lossRaised = s.lossRaised := rfl
@[simp] theorem State.becomeDeferred_capture (s : State) (i : Slot) (e : Exchange) (due : Mono) :
    (s.becomeDeferred i e due).capture = s.capture := rfl
@[simp] theorem State.becomeDeferred_sampled (s : State) (i : Slot) (e : Exchange) (due : Mono) :
    (s.becomeDeferred i e due).sampled = s.sampled := rfl
@[simp] theorem State.becomeDeferred_qualifiedLevel (s : State) (i : Slot) (e : Exchange) (due : Mono) :
    (s.becomeDeferred i e due).qualifiedLevel = s.qualifiedLevel := rfl
@[simp] theorem State.becomeDeferred_syncRun (s : State) (i : Slot) (e : Exchange) (due : Mono) :
    (s.becomeDeferred i e due).syncRun = s.syncRun := rfl
@[simp] theorem State.becomeDeferred_levelChange (s : State) (i : Slot) (e : Exchange) (due : Mono) :
    (s.becomeDeferred i e due).levelChange = s.levelChange := rfl
@[simp] theorem State.becomeDeferred_schedule (s : State) (i : Slot) (e : Exchange) (due : Mono) :
    (s.becomeDeferred i e due).schedule = s.schedule := rfl
@[simp] theorem State.becomeDeferred_delivery (s : State) (i : Slot) (e : Exchange) (due : Mono) :
    (s.becomeDeferred i e due).delivery = s.delivery := rfl
@[simp] theorem State.becomeDeferred_advanceHeld (s : State) (i : Slot) (e : Exchange) (due : Mono) :
    (s.becomeDeferred i e due).advanceHeld = s.advanceHeld := rfl
@[simp] theorem State.becomeDeferred_pending (s : State) (i : Slot) (e : Exchange) (due : Mono) :
    (s.becomeDeferred i e due).pending = s.pending := rfl

/-! ### becomeReady -/

@[simp] theorem State.becomeReady_headPort (s : State) (i : Slot) (e : Exchange) :
    (s.becomeReady i e).headPort = s.headPort := rfl
@[simp] theorem State.becomeReady_fieldPort (s : State) (i : Slot) (e : Exchange) :
    (s.becomeReady i e).fieldPort = s.fieldPort := rfl
@[simp] theorem State.becomeReady_intake (s : State) (i : Slot) (e : Exchange) :
    (s.becomeReady i e).intake = s.intake := rfl
@[simp] theorem State.becomeReady_params (s : State) (i : Slot) (e : Exchange) :
    (s.becomeReady i e).params = s.params := rfl
@[simp] theorem State.becomeReady_stagedLength (s : State) (i : Slot) (e : Exchange) :
    (s.becomeReady i e).stagedLength = s.stagedLength := rfl
@[simp] theorem State.becomeReady_flags (s : State) (i : Slot) (e : Exchange) :
    (s.becomeReady i e).flags = s.flags := rfl
@[simp] theorem State.becomeReady_flagEvent (s : State) (i : Slot) (e : Exchange) :
    (s.becomeReady i e).flagEvent = s.flagEvent := rfl
@[simp] theorem State.becomeReady_flagsOwed (s : State) (i : Slot) (e : Exchange) :
    (s.becomeReady i e).flagsOwed = s.flagsOwed := rfl
@[simp] theorem State.becomeReady_counters (s : State) (i : Slot) (e : Exchange) :
    (s.becomeReady i e).counters = s.counters := rfl
@[simp] theorem State.becomeReady_policies (s : State) (i : Slot) (e : Exchange) :
    (s.becomeReady i e).policies = s.policies := rfl
@[simp] theorem State.becomeReady_slots (s : State) (i : Slot) (e : Exchange) :
    (s.becomeReady i e).slots = s.slots.set i (some { e with state := .ready, answerDue := none, reissueDue := none }) := rfl
@[simp] theorem State.becomeReady_admissionCounter (s : State) (i : Slot) (e : Exchange) :
    (s.becomeReady i e).admissionCounter = s.admissionCounter := rfl
@[simp] theorem State.becomeReady_pendingOrder (s : State) (i : Slot) (e : Exchange) :
    (s.becomeReady i e).pendingOrder = s.pendingWith i e.admissionSeq := rfl
@[simp] theorem State.becomeReady_deferralList (s : State) (i : Slot) (e : Exchange) :
    (s.becomeReady i e).deferralList = s.deferralList.filter (· != i) := rfl
@[simp] theorem State.becomeReady_nodes (s : State) (i : Slot) (e : Exchange) :
    (s.becomeReady i e).nodes = s.nodes := rfl
@[simp] theorem State.becomeReady_scheduleRun (s : State) (i : Slot) (e : Exchange) :
    (s.becomeReady i e).scheduleRun = s.scheduleRun := rfl
@[simp] theorem State.becomeReady_inFlight (s : State) (i : Slot) (e : Exchange) :
    (s.becomeReady i e).inFlight = s.inFlight := rfl
@[simp] theorem State.becomeReady_receipts (s : State) (i : Slot) (e : Exchange) :
    (s.becomeReady i e).receipts = s.receipts := rfl
@[simp] theorem State.becomeReady_store (s : State) (i : Slot) (e : Exchange) :
    (s.becomeReady i e).store = s.store := rfl
@[simp] theorem State.becomeReady_owedOrder (s : State) (i : Slot) (e : Exchange) :
    (s.becomeReady i e).owedOrder = s.owedOrder := rfl
@[simp] theorem State.becomeReady_now (s : State) (i : Slot) (e : Exchange) : (s.becomeReady i e).now = s.now := rfl
@[simp] theorem State.becomeReady_phase (s : State) (i : Slot) (e : Exchange) :
    (s.becomeReady i e).phase = s.phase := rfl
@[simp] theorem State.becomeReady_cycle (s : State) (i : Slot) (e : Exchange) :
    (s.becomeReady i e).cycle = s.cycle := rfl
@[simp] theorem State.becomeReady_startKind (s : State) (i : Slot) (e : Exchange) :
    (s.becomeReady i e).startKind = s.startKind := rfl
@[simp] theorem State.becomeReady_missRun (s : State) (i : Slot) (e : Exchange) :
    (s.becomeReady i e).missRun = s.missRun := rfl
@[simp] theorem State.becomeReady_lossRaised (s : State) (i : Slot) (e : Exchange) :
    (s.becomeReady i e).lossRaised = s.lossRaised := rfl
@[simp] theorem State.becomeReady_capture (s : State) (i : Slot) (e : Exchange) :
    (s.becomeReady i e).capture = s.capture := rfl
@[simp] theorem State.becomeReady_sampled (s : State) (i : Slot) (e : Exchange) :
    (s.becomeReady i e).sampled = s.sampled := rfl
@[simp] theorem State.becomeReady_qualifiedLevel (s : State) (i : Slot) (e : Exchange) :
    (s.becomeReady i e).qualifiedLevel = s.qualifiedLevel := rfl
@[simp] theorem State.becomeReady_syncRun (s : State) (i : Slot) (e : Exchange) :
    (s.becomeReady i e).syncRun = s.syncRun := rfl
@[simp] theorem State.becomeReady_levelChange (s : State) (i : Slot) (e : Exchange) :
    (s.becomeReady i e).levelChange = s.levelChange := rfl
@[simp] theorem State.becomeReady_schedule (s : State) (i : Slot) (e : Exchange) :
    (s.becomeReady i e).schedule = s.schedule := rfl
@[simp] theorem State.becomeReady_delivery (s : State) (i : Slot) (e : Exchange) :
    (s.becomeReady i e).delivery = s.delivery := rfl
@[simp] theorem State.becomeReady_advanceHeld (s : State) (i : Slot) (e : Exchange) :
    (s.becomeReady i e).advanceHeld = s.advanceHeld := rfl
@[simp] theorem State.becomeReady_pending (s : State) (i : Slot) (e : Exchange) :
    (s.becomeReady i e).pending = s.pending := rfl

/-! ### updateEntry -/

@[simp] theorem State.updateEntry_headPort (s : State) (k : EntryIndex) (f : ScheduleEntry → ScheduleEntry) :
    (s.updateEntry k f).headPort = s.headPort := rfl
@[simp] theorem State.updateEntry_fieldPort (s : State) (k : EntryIndex) (f : ScheduleEntry → ScheduleEntry) :
    (s.updateEntry k f).fieldPort = s.fieldPort := rfl
@[simp] theorem State.updateEntry_intake (s : State) (k : EntryIndex) (f : ScheduleEntry → ScheduleEntry) :
    (s.updateEntry k f).intake = s.intake := rfl
@[simp] theorem State.updateEntry_params (s : State) (k : EntryIndex) (f : ScheduleEntry → ScheduleEntry) :
    (s.updateEntry k f).params = s.params := rfl
@[simp] theorem State.updateEntry_stagedLength (s : State) (k : EntryIndex) (f : ScheduleEntry → ScheduleEntry) :
    (s.updateEntry k f).stagedLength = s.stagedLength := rfl
@[simp] theorem State.updateEntry_flags (s : State) (k : EntryIndex) (f : ScheduleEntry → ScheduleEntry) :
    (s.updateEntry k f).flags = s.flags := rfl
@[simp] theorem State.updateEntry_flagEvent (s : State) (k : EntryIndex) (f : ScheduleEntry → ScheduleEntry) :
    (s.updateEntry k f).flagEvent = s.flagEvent := rfl
@[simp] theorem State.updateEntry_flagsOwed (s : State) (k : EntryIndex) (f : ScheduleEntry → ScheduleEntry) :
    (s.updateEntry k f).flagsOwed = s.flagsOwed := rfl
@[simp] theorem State.updateEntry_counters (s : State) (k : EntryIndex) (f : ScheduleEntry → ScheduleEntry) :
    (s.updateEntry k f).counters = s.counters := rfl
@[simp] theorem State.updateEntry_policies (s : State) (k : EntryIndex) (f : ScheduleEntry → ScheduleEntry) :
    (s.updateEntry k f).policies = s.policies := rfl
@[simp] theorem State.updateEntry_slots (s : State) (k : EntryIndex) (f : ScheduleEntry → ScheduleEntry) :
    (s.updateEntry k f).slots = s.slots := rfl
@[simp] theorem State.updateEntry_admissionCounter (s : State) (k : EntryIndex) (f : ScheduleEntry → ScheduleEntry) :
    (s.updateEntry k f).admissionCounter = s.admissionCounter := rfl
@[simp] theorem State.updateEntry_pendingOrder (s : State) (k : EntryIndex) (f : ScheduleEntry → ScheduleEntry) :
    (s.updateEntry k f).pendingOrder = s.pendingOrder := rfl
@[simp] theorem State.updateEntry_deferralList (s : State) (k : EntryIndex) (f : ScheduleEntry → ScheduleEntry) :
    (s.updateEntry k f).deferralList = s.deferralList := rfl
@[simp] theorem State.updateEntry_nodes (s : State) (k : EntryIndex) (f : ScheduleEntry → ScheduleEntry) :
    (s.updateEntry k f).nodes = s.nodes := rfl
@[simp] theorem State.updateEntry_scheduleRun (s : State) (k : EntryIndex) (f : ScheduleEntry → ScheduleEntry) :
    (s.updateEntry k f).scheduleRun = s.scheduleRun := rfl
@[simp] theorem State.updateEntry_inFlight (s : State) (k : EntryIndex) (f : ScheduleEntry → ScheduleEntry) :
    (s.updateEntry k f).inFlight = s.inFlight := rfl
@[simp] theorem State.updateEntry_receipts (s : State) (k : EntryIndex) (f : ScheduleEntry → ScheduleEntry) :
    (s.updateEntry k f).receipts = s.receipts := rfl
@[simp] theorem State.updateEntry_store (s : State) (k : EntryIndex) (f : ScheduleEntry → ScheduleEntry) :
    (s.updateEntry k f).store = s.store := rfl
@[simp] theorem State.updateEntry_owedOrder (s : State) (k : EntryIndex) (f : ScheduleEntry → ScheduleEntry) :
    (s.updateEntry k f).owedOrder = s.owedOrder := rfl
@[simp] theorem State.updateEntry_now (s : State) (k : EntryIndex) (f : ScheduleEntry → ScheduleEntry) :
    (s.updateEntry k f).now = s.now := rfl
@[simp] theorem State.updateEntry_phase (s : State) (k : EntryIndex) (f : ScheduleEntry → ScheduleEntry) :
    (s.updateEntry k f).phase = s.phase := rfl
@[simp] theorem State.updateEntry_cycle (s : State) (k : EntryIndex) (f : ScheduleEntry → ScheduleEntry) :
    (s.updateEntry k f).cycle = s.cycle := rfl
@[simp] theorem State.updateEntry_startKind (s : State) (k : EntryIndex) (f : ScheduleEntry → ScheduleEntry) :
    (s.updateEntry k f).startKind = s.startKind := rfl
@[simp] theorem State.updateEntry_missRun (s : State) (k : EntryIndex) (f : ScheduleEntry → ScheduleEntry) :
    (s.updateEntry k f).missRun = s.missRun := rfl
@[simp] theorem State.updateEntry_lossRaised (s : State) (k : EntryIndex) (f : ScheduleEntry → ScheduleEntry) :
    (s.updateEntry k f).lossRaised = s.lossRaised := rfl
@[simp] theorem State.updateEntry_capture (s : State) (k : EntryIndex) (f : ScheduleEntry → ScheduleEntry) :
    (s.updateEntry k f).capture = s.capture := rfl
@[simp] theorem State.updateEntry_sampled (s : State) (k : EntryIndex) (f : ScheduleEntry → ScheduleEntry) :
    (s.updateEntry k f).sampled = s.sampled := rfl
@[simp] theorem State.updateEntry_qualifiedLevel (s : State) (k : EntryIndex) (f : ScheduleEntry → ScheduleEntry) :
    (s.updateEntry k f).qualifiedLevel = s.qualifiedLevel := rfl
@[simp] theorem State.updateEntry_syncRun (s : State) (k : EntryIndex) (f : ScheduleEntry → ScheduleEntry) :
    (s.updateEntry k f).syncRun = s.syncRun := rfl
@[simp] theorem State.updateEntry_levelChange (s : State) (k : EntryIndex) (f : ScheduleEntry → ScheduleEntry) :
    (s.updateEntry k f).levelChange = s.levelChange := rfl
@[simp] theorem State.updateEntry_schedule (s : State) (k : EntryIndex) (f : ScheduleEntry → ScheduleEntry) :
    (s.updateEntry k f).schedule = s.schedule.set k (f s.schedule[k]) := rfl
@[simp] theorem State.updateEntry_delivery (s : State) (k : EntryIndex) (f : ScheduleEntry → ScheduleEntry) :
    (s.updateEntry k f).delivery = s.delivery := rfl
@[simp] theorem State.updateEntry_advanceHeld (s : State) (k : EntryIndex) (f : ScheduleEntry → ScheduleEntry) :
    (s.updateEntry k f).advanceHeld = s.advanceHeld := rfl
@[simp] theorem State.updateEntry_pending (s : State) (k : EntryIndex) (f : ScheduleEntry → ScheduleEntry) :
    (s.updateEntry k f).pending = s.pending := rfl

/-! ### startField -/

@[simp] theorem State.startField_headPort (s : State) (f : Frame) (x : InFlight) :
    (s.startField f x).headPort = s.headPort := rfl
@[simp] theorem State.startField_fieldPort (s : State) (f : Frame) (x : InFlight) :
    (s.startField f x).fieldPort = s.fieldPort.start s.now f := rfl
@[simp] theorem State.startField_intake (s : State) (f : Frame) (x : InFlight) :
    (s.startField f x).intake = s.intake := rfl
@[simp] theorem State.startField_params (s : State) (f : Frame) (x : InFlight) :
    (s.startField f x).params = s.params := rfl
@[simp] theorem State.startField_stagedLength (s : State) (f : Frame) (x : InFlight) :
    (s.startField f x).stagedLength = s.stagedLength := rfl
@[simp] theorem State.startField_flags (s : State) (f : Frame) (x : InFlight) :
    (s.startField f x).flags = s.flags := rfl
@[simp] theorem State.startField_flagEvent (s : State) (f : Frame) (x : InFlight) :
    (s.startField f x).flagEvent = s.flagEvent := rfl
@[simp] theorem State.startField_flagsOwed (s : State) (f : Frame) (x : InFlight) :
    (s.startField f x).flagsOwed = s.flagsOwed := rfl
@[simp] theorem State.startField_counters (s : State) (f : Frame) (x : InFlight) :
    (s.startField f x).counters = s.counters := rfl
@[simp] theorem State.startField_policies (s : State) (f : Frame) (x : InFlight) :
    (s.startField f x).policies = s.policies := rfl
@[simp] theorem State.startField_slots (s : State) (f : Frame) (x : InFlight) :
    (s.startField f x).slots = s.slots := rfl
@[simp] theorem State.startField_admissionCounter (s : State) (f : Frame) (x : InFlight) :
    (s.startField f x).admissionCounter = s.admissionCounter := rfl
@[simp] theorem State.startField_pendingOrder (s : State) (f : Frame) (x : InFlight) :
    (s.startField f x).pendingOrder = s.pendingOrder := rfl
@[simp] theorem State.startField_deferralList (s : State) (f : Frame) (x : InFlight) :
    (s.startField f x).deferralList = s.deferralList := rfl
@[simp] theorem State.startField_nodes (s : State) (f : Frame) (x : InFlight) :
    (s.startField f x).nodes = s.nodes := rfl
@[simp] theorem State.startField_scheduleRun (s : State) (f : Frame) (x : InFlight) :
    (s.startField f x).scheduleRun = s.scheduleRun := rfl
@[simp] theorem State.startField_inFlight (s : State) (f : Frame) (x : InFlight) :
    (s.startField f x).inFlight = some x := rfl
@[simp] theorem State.startField_receipts (s : State) (f : Frame) (x : InFlight) :
    (s.startField f x).receipts = s.receipts := rfl
@[simp] theorem State.startField_store (s : State) (f : Frame) (x : InFlight) :
    (s.startField f x).store = s.store := rfl
@[simp] theorem State.startField_owedOrder (s : State) (f : Frame) (x : InFlight) :
    (s.startField f x).owedOrder = s.owedOrder := rfl
@[simp] theorem State.startField_now (s : State) (f : Frame) (x : InFlight) : (s.startField f x).now = s.now := rfl
@[simp] theorem State.startField_phase (s : State) (f : Frame) (x : InFlight) :
    (s.startField f x).phase = s.phase := rfl
@[simp] theorem State.startField_cycle (s : State) (f : Frame) (x : InFlight) :
    (s.startField f x).cycle = s.cycle := rfl
@[simp] theorem State.startField_startKind (s : State) (f : Frame) (x : InFlight) :
    (s.startField f x).startKind = s.startKind := rfl
@[simp] theorem State.startField_missRun (s : State) (f : Frame) (x : InFlight) :
    (s.startField f x).missRun = s.missRun := rfl
@[simp] theorem State.startField_lossRaised (s : State) (f : Frame) (x : InFlight) :
    (s.startField f x).lossRaised = s.lossRaised := rfl
@[simp] theorem State.startField_capture (s : State) (f : Frame) (x : InFlight) :
    (s.startField f x).capture = s.capture := rfl
@[simp] theorem State.startField_sampled (s : State) (f : Frame) (x : InFlight) :
    (s.startField f x).sampled = s.sampled := rfl
@[simp] theorem State.startField_qualifiedLevel (s : State) (f : Frame) (x : InFlight) :
    (s.startField f x).qualifiedLevel = s.qualifiedLevel := rfl
@[simp] theorem State.startField_syncRun (s : State) (f : Frame) (x : InFlight) :
    (s.startField f x).syncRun = s.syncRun := rfl
@[simp] theorem State.startField_levelChange (s : State) (f : Frame) (x : InFlight) :
    (s.startField f x).levelChange = s.levelChange := rfl
@[simp] theorem State.startField_schedule (s : State) (f : Frame) (x : InFlight) :
    (s.startField f x).schedule = s.schedule := rfl
@[simp] theorem State.startField_delivery (s : State) (f : Frame) (x : InFlight) :
    (s.startField f x).delivery = s.delivery := rfl
@[simp] theorem State.startField_advanceHeld (s : State) (f : Frame) (x : InFlight) :
    (s.startField f x).advanceHeld = s.advanceHeld := rfl
@[simp] theorem State.startField_pending (s : State) (f : Frame) (x : InFlight) :
    (s.startField f x).pending = s.pending := rfl

/-! ### endField -/

@[simp] theorem State.endField_headPort (s : State) : (s.endField).headPort = s.headPort := rfl
@[simp] theorem State.endField_fieldPort (s : State) : (s.endField).fieldPort = s.fieldPort.idle := rfl
@[simp] theorem State.endField_intake (s : State) : (s.endField).intake = s.intake := rfl
@[simp] theorem State.endField_params (s : State) : (s.endField).params = s.params := rfl
@[simp] theorem State.endField_stagedLength (s : State) : (s.endField).stagedLength = s.stagedLength := rfl
@[simp] theorem State.endField_flags (s : State) : (s.endField).flags = s.flags := rfl
@[simp] theorem State.endField_flagEvent (s : State) : (s.endField).flagEvent = s.flagEvent := rfl
@[simp] theorem State.endField_flagsOwed (s : State) : (s.endField).flagsOwed = s.flagsOwed := rfl
@[simp] theorem State.endField_counters (s : State) : (s.endField).counters = s.counters := rfl
@[simp] theorem State.endField_policies (s : State) : (s.endField).policies = s.policies := rfl
@[simp] theorem State.endField_slots (s : State) : (s.endField).slots = s.slots := rfl
@[simp] theorem State.endField_admissionCounter (s : State) :
    (s.endField).admissionCounter = s.admissionCounter := rfl
@[simp] theorem State.endField_pendingOrder (s : State) : (s.endField).pendingOrder = s.pendingOrder := rfl
@[simp] theorem State.endField_deferralList (s : State) : (s.endField).deferralList = s.deferralList := rfl
@[simp] theorem State.endField_nodes (s : State) : (s.endField).nodes = s.nodes := rfl
@[simp] theorem State.endField_scheduleRun (s : State) : (s.endField).scheduleRun = s.scheduleRun := rfl
@[simp] theorem State.endField_inFlight (s : State) : (s.endField).inFlight = none := rfl
@[simp] theorem State.endField_receipts (s : State) : (s.endField).receipts = s.receipts := rfl
@[simp] theorem State.endField_store (s : State) : (s.endField).store = s.store := rfl
@[simp] theorem State.endField_owedOrder (s : State) : (s.endField).owedOrder = s.owedOrder := rfl
@[simp] theorem State.endField_now (s : State) : (s.endField).now = s.now := rfl
@[simp] theorem State.endField_phase (s : State) : (s.endField).phase = s.phase := rfl
@[simp] theorem State.endField_cycle (s : State) : (s.endField).cycle = s.cycle := rfl
@[simp] theorem State.endField_startKind (s : State) : (s.endField).startKind = s.startKind := rfl
@[simp] theorem State.endField_missRun (s : State) : (s.endField).missRun = s.missRun := rfl
@[simp] theorem State.endField_lossRaised (s : State) : (s.endField).lossRaised = s.lossRaised := rfl
@[simp] theorem State.endField_capture (s : State) : (s.endField).capture = s.capture := rfl
@[simp] theorem State.endField_sampled (s : State) : (s.endField).sampled = s.sampled := rfl
@[simp] theorem State.endField_qualifiedLevel (s : State) : (s.endField).qualifiedLevel = s.qualifiedLevel := rfl
@[simp] theorem State.endField_syncRun (s : State) : (s.endField).syncRun = s.syncRun := rfl
@[simp] theorem State.endField_levelChange (s : State) : (s.endField).levelChange = s.levelChange := rfl
@[simp] theorem State.endField_schedule (s : State) : (s.endField).schedule = s.schedule := rfl
@[simp] theorem State.endField_delivery (s : State) : (s.endField).delivery = s.delivery := rfl
@[simp] theorem State.endField_advanceHeld (s : State) : (s.endField).advanceHeld = s.advanceHeld := rfl
@[simp] theorem State.endField_pending (s : State) : (s.endField).pending = s.pending := rfl

/-! ### selectExchange -/

@[simp] theorem State.selectExchange_headPort (s : State) (i : Slot) (e : Exchange) :
    (s.selectExchange i e).headPort = s.headPort := rfl
@[simp] theorem State.selectExchange_fieldPort (s : State) (i : Slot) (e : Exchange) :
    (s.selectExchange i e).fieldPort = s.fieldPort := rfl
@[simp] theorem State.selectExchange_intake (s : State) (i : Slot) (e : Exchange) :
    (s.selectExchange i e).intake = s.intake := rfl
@[simp] theorem State.selectExchange_params (s : State) (i : Slot) (e : Exchange) :
    (s.selectExchange i e).params = s.params := rfl
@[simp] theorem State.selectExchange_stagedLength (s : State) (i : Slot) (e : Exchange) :
    (s.selectExchange i e).stagedLength = s.stagedLength := rfl
@[simp] theorem State.selectExchange_flags (s : State) (i : Slot) (e : Exchange) :
    (s.selectExchange i e).flags = s.flags := rfl
@[simp] theorem State.selectExchange_flagEvent (s : State) (i : Slot) (e : Exchange) :
    (s.selectExchange i e).flagEvent = s.flagEvent := rfl
@[simp] theorem State.selectExchange_flagsOwed (s : State) (i : Slot) (e : Exchange) :
    (s.selectExchange i e).flagsOwed = s.flagsOwed := rfl
@[simp] theorem State.selectExchange_counters (s : State) (i : Slot) (e : Exchange) :
    (s.selectExchange i e).counters = s.counters := rfl
@[simp] theorem State.selectExchange_policies (s : State) (i : Slot) (e : Exchange) :
    (s.selectExchange i e).policies = s.policies := rfl
@[simp] theorem State.selectExchange_slots (s : State) (i : Slot) (e : Exchange) :
    (s.selectExchange i e).slots = s.slots.set i (some { e with state := .issued, answerDue := none, issueCount := e.issueCount + 1 }) := rfl
@[simp] theorem State.selectExchange_admissionCounter (s : State) (i : Slot) (e : Exchange) :
    (s.selectExchange i e).admissionCounter = s.admissionCounter := rfl
@[simp] theorem State.selectExchange_pendingOrder (s : State) (i : Slot) (e : Exchange) :
    (s.selectExchange i e).pendingOrder = s.pendingOrder.filter (· != i) := rfl
@[simp] theorem State.selectExchange_deferralList (s : State) (i : Slot) (e : Exchange) :
    (s.selectExchange i e).deferralList = s.deferralList := rfl
@[simp] theorem State.selectExchange_nodes (s : State) (i : Slot) (e : Exchange) :
    (s.selectExchange i e).nodes = s.nodes := rfl
@[simp] theorem State.selectExchange_scheduleRun (s : State) (i : Slot) (e : Exchange) :
    (s.selectExchange i e).scheduleRun = s.runAfter e.origin := rfl
@[simp] theorem State.selectExchange_inFlight (s : State) (i : Slot) (e : Exchange) :
    (s.selectExchange i e).inFlight = s.inFlight := rfl
@[simp] theorem State.selectExchange_receipts (s : State) (i : Slot) (e : Exchange) :
    (s.selectExchange i e).receipts = s.receipts := rfl
@[simp] theorem State.selectExchange_store (s : State) (i : Slot) (e : Exchange) :
    (s.selectExchange i e).store = s.store := rfl
@[simp] theorem State.selectExchange_owedOrder (s : State) (i : Slot) (e : Exchange) :
    (s.selectExchange i e).owedOrder = s.owedOrder := rfl
@[simp] theorem State.selectExchange_now (s : State) (i : Slot) (e : Exchange) :
    (s.selectExchange i e).now = s.now := rfl
@[simp] theorem State.selectExchange_phase (s : State) (i : Slot) (e : Exchange) :
    (s.selectExchange i e).phase = s.phase := rfl
@[simp] theorem State.selectExchange_cycle (s : State) (i : Slot) (e : Exchange) :
    (s.selectExchange i e).cycle = s.cycle := rfl
@[simp] theorem State.selectExchange_startKind (s : State) (i : Slot) (e : Exchange) :
    (s.selectExchange i e).startKind = s.startKind := rfl
@[simp] theorem State.selectExchange_missRun (s : State) (i : Slot) (e : Exchange) :
    (s.selectExchange i e).missRun = s.missRun := rfl
@[simp] theorem State.selectExchange_lossRaised (s : State) (i : Slot) (e : Exchange) :
    (s.selectExchange i e).lossRaised = s.lossRaised := rfl
@[simp] theorem State.selectExchange_capture (s : State) (i : Slot) (e : Exchange) :
    (s.selectExchange i e).capture = s.capture := rfl
@[simp] theorem State.selectExchange_sampled (s : State) (i : Slot) (e : Exchange) :
    (s.selectExchange i e).sampled = s.sampled := rfl
@[simp] theorem State.selectExchange_qualifiedLevel (s : State) (i : Slot) (e : Exchange) :
    (s.selectExchange i e).qualifiedLevel = s.qualifiedLevel := rfl
@[simp] theorem State.selectExchange_syncRun (s : State) (i : Slot) (e : Exchange) :
    (s.selectExchange i e).syncRun = s.syncRun := rfl
@[simp] theorem State.selectExchange_levelChange (s : State) (i : Slot) (e : Exchange) :
    (s.selectExchange i e).levelChange = s.levelChange := rfl
@[simp] theorem State.selectExchange_schedule (s : State) (i : Slot) (e : Exchange) :
    (s.selectExchange i e).schedule = s.schedule := rfl
@[simp] theorem State.selectExchange_delivery (s : State) (i : Slot) (e : Exchange) :
    (s.selectExchange i e).delivery = s.delivery := rfl
@[simp] theorem State.selectExchange_advanceHeld (s : State) (i : Slot) (e : Exchange) :
    (s.selectExchange i e).advanceHeld = s.advanceHeld := rfl
@[simp] theorem State.selectExchange_pending (s : State) (i : Slot) (e : Exchange) :
    (s.selectExchange i e).pending = s.pending := rfl

/-! ### completeHead -/

@[simp] theorem State.completeHead_headPort (s : State) : (s.completeHead).headPort = s.headPort.idle := rfl
@[simp] theorem State.completeHead_fieldPort (s : State) : (s.completeHead).fieldPort = s.fieldPort := rfl
@[simp] theorem State.completeHead_intake (s : State) : (s.completeHead).intake = s.intake := rfl
@[simp] theorem State.completeHead_params (s : State) : (s.completeHead).params = s.params := rfl
@[simp] theorem State.completeHead_stagedLength (s : State) : (s.completeHead).stagedLength = s.stagedLength := rfl
@[simp] theorem State.completeHead_flags (s : State) : (s.completeHead).flags = s.flags := rfl
@[simp] theorem State.completeHead_flagEvent (s : State) : (s.completeHead).flagEvent = s.flagEvent := rfl
@[simp] theorem State.completeHead_flagsOwed (s : State) : (s.completeHead).flagsOwed = s.flagsOwed := rfl
@[simp] theorem State.completeHead_counters (s : State) : (s.completeHead).counters = s.counters := rfl
@[simp] theorem State.completeHead_policies (s : State) : (s.completeHead).policies = s.policies := rfl
@[simp] theorem State.completeHead_slots (s : State) : (s.completeHead).slots = s.slots := rfl
@[simp] theorem State.completeHead_admissionCounter (s : State) :
    (s.completeHead).admissionCounter = s.admissionCounter := rfl
@[simp] theorem State.completeHead_pendingOrder (s : State) : (s.completeHead).pendingOrder = s.pendingOrder := rfl
@[simp] theorem State.completeHead_deferralList (s : State) : (s.completeHead).deferralList = s.deferralList := rfl
@[simp] theorem State.completeHead_nodes (s : State) : (s.completeHead).nodes = s.nodes := rfl
@[simp] theorem State.completeHead_scheduleRun (s : State) : (s.completeHead).scheduleRun = s.scheduleRun := rfl
@[simp] theorem State.completeHead_inFlight (s : State) : (s.completeHead).inFlight = s.inFlight := rfl
@[simp] theorem State.completeHead_receipts (s : State) : (s.completeHead).receipts = s.receipts := rfl
@[simp] theorem State.completeHead_store (s : State) : (s.completeHead).store = s.store := rfl
@[simp] theorem State.completeHead_owedOrder (s : State) : (s.completeHead).owedOrder = s.owedOrder := rfl
@[simp] theorem State.completeHead_now (s : State) : (s.completeHead).now = s.now := rfl
@[simp] theorem State.completeHead_phase (s : State) : (s.completeHead).phase = s.phase := rfl
@[simp] theorem State.completeHead_cycle (s : State) : (s.completeHead).cycle = s.cycle := rfl
@[simp] theorem State.completeHead_startKind (s : State) : (s.completeHead).startKind = s.startKind := rfl
@[simp] theorem State.completeHead_missRun (s : State) : (s.completeHead).missRun = s.missRun := rfl
@[simp] theorem State.completeHead_lossRaised (s : State) : (s.completeHead).lossRaised = s.lossRaised := rfl
@[simp] theorem State.completeHead_capture (s : State) : (s.completeHead).capture = s.capture := rfl
@[simp] theorem State.completeHead_sampled (s : State) : (s.completeHead).sampled = s.sampled := rfl
@[simp] theorem State.completeHead_qualifiedLevel (s : State) :
    (s.completeHead).qualifiedLevel = s.qualifiedLevel := rfl
@[simp] theorem State.completeHead_syncRun (s : State) : (s.completeHead).syncRun = s.syncRun := rfl
@[simp] theorem State.completeHead_levelChange (s : State) : (s.completeHead).levelChange = s.levelChange := rfl
@[simp] theorem State.completeHead_schedule (s : State) : (s.completeHead).schedule = s.schedule := rfl
@[simp] theorem State.completeHead_delivery (s : State) : (s.completeHead).delivery = s.delivery.tail := rfl
@[simp] theorem State.completeHead_advanceHeld (s : State) : (s.completeHead).advanceHeld = s.advanceHeld := rfl
@[simp] theorem State.completeHead_pending (s : State) : (s.completeHead).pending = s.pending := rfl

/-! ### taken -/

@[simp] theorem State.taken_headPort (s : State) : (s.taken).headPort = s.headPort := rfl
@[simp] theorem State.taken_fieldPort (s : State) : (s.taken).fieldPort = s.fieldPort := rfl
@[simp] theorem State.taken_intake (s : State) : (s.taken).intake = s.intake.tail := rfl
@[simp] theorem State.taken_params (s : State) : (s.taken).params = s.params := rfl
@[simp] theorem State.taken_stagedLength (s : State) : (s.taken).stagedLength = s.stagedLength := rfl
@[simp] theorem State.taken_flags (s : State) : (s.taken).flags = s.flags := rfl
@[simp] theorem State.taken_flagEvent (s : State) : (s.taken).flagEvent = s.flagEvent := rfl
@[simp] theorem State.taken_flagsOwed (s : State) : (s.taken).flagsOwed = s.flagsOwed := rfl
@[simp] theorem State.taken_counters (s : State) : (s.taken).counters = (s.tally .directivesTaken).counters := rfl
@[simp] theorem State.taken_policies (s : State) : (s.taken).policies = s.policies := rfl
@[simp] theorem State.taken_slots (s : State) : (s.taken).slots = s.slots := rfl
@[simp] theorem State.taken_admissionCounter (s : State) : (s.taken).admissionCounter = s.admissionCounter := rfl
@[simp] theorem State.taken_pendingOrder (s : State) : (s.taken).pendingOrder = s.pendingOrder := rfl
@[simp] theorem State.taken_deferralList (s : State) : (s.taken).deferralList = s.deferralList := rfl
@[simp] theorem State.taken_nodes (s : State) : (s.taken).nodes = s.nodes := rfl
@[simp] theorem State.taken_scheduleRun (s : State) : (s.taken).scheduleRun = s.scheduleRun := rfl
@[simp] theorem State.taken_inFlight (s : State) : (s.taken).inFlight = s.inFlight := rfl
@[simp] theorem State.taken_receipts (s : State) : (s.taken).receipts = s.receipts := rfl
@[simp] theorem State.taken_store (s : State) : (s.taken).store = s.store := rfl
@[simp] theorem State.taken_owedOrder (s : State) : (s.taken).owedOrder = s.owedOrder := rfl
@[simp] theorem State.taken_now (s : State) : (s.taken).now = s.now := rfl
@[simp] theorem State.taken_phase (s : State) : (s.taken).phase = s.phase := rfl
@[simp] theorem State.taken_cycle (s : State) : (s.taken).cycle = s.cycle := rfl
@[simp] theorem State.taken_startKind (s : State) : (s.taken).startKind = s.startKind := rfl
@[simp] theorem State.taken_missRun (s : State) : (s.taken).missRun = s.missRun := rfl
@[simp] theorem State.taken_lossRaised (s : State) : (s.taken).lossRaised = s.lossRaised := rfl
@[simp] theorem State.taken_capture (s : State) : (s.taken).capture = s.capture := rfl
@[simp] theorem State.taken_sampled (s : State) : (s.taken).sampled = s.sampled := rfl
@[simp] theorem State.taken_qualifiedLevel (s : State) : (s.taken).qualifiedLevel = s.qualifiedLevel := rfl
@[simp] theorem State.taken_syncRun (s : State) : (s.taken).syncRun = s.syncRun := rfl
@[simp] theorem State.taken_levelChange (s : State) : (s.taken).levelChange = s.levelChange := rfl
@[simp] theorem State.taken_schedule (s : State) : (s.taken).schedule = s.schedule := rfl
@[simp] theorem State.taken_delivery (s : State) : (s.taken).delivery = s.delivery := rfl
@[simp] theorem State.taken_advanceHeld (s : State) : (s.taken).advanceHeld = s.advanceHeld := rfl
@[simp] theorem State.taken_pending (s : State) : (s.taken).pending = s.pending := rfl

/-! ### takeLevel -/

@[simp] theorem State.takeLevel_headPort (s : State) : (s.takeLevel).headPort = s.headPort := rfl
@[simp] theorem State.takeLevel_fieldPort (s : State) : (s.takeLevel).fieldPort = s.fieldPort := rfl
@[simp] theorem State.takeLevel_intake (s : State) : (s.takeLevel).intake = s.intake := rfl
@[simp] theorem State.takeLevel_params (s : State) : (s.takeLevel).params = s.params := rfl
@[simp] theorem State.takeLevel_stagedLength (s : State) : (s.takeLevel).stagedLength = s.stagedLength := rfl
@[simp] theorem State.takeLevel_flags (s : State) : (s.takeLevel).flags = s.flags := rfl
@[simp] theorem State.takeLevel_flagEvent (s : State) : (s.takeLevel).flagEvent = s.flagEvent := rfl
@[simp] theorem State.takeLevel_flagsOwed (s : State) : (s.takeLevel).flagsOwed = s.flagsOwed := rfl
@[simp] theorem State.takeLevel_counters (s : State) : (s.takeLevel).counters = s.counters := rfl
@[simp] theorem State.takeLevel_policies (s : State) : (s.takeLevel).policies = s.policies := rfl
@[simp] theorem State.takeLevel_slots (s : State) : (s.takeLevel).slots = s.slots := rfl
@[simp] theorem State.takeLevel_admissionCounter (s : State) :
    (s.takeLevel).admissionCounter = s.admissionCounter := rfl
@[simp] theorem State.takeLevel_pendingOrder (s : State) : (s.takeLevel).pendingOrder = s.pendingOrder := rfl
@[simp] theorem State.takeLevel_deferralList (s : State) : (s.takeLevel).deferralList = s.deferralList := rfl
@[simp] theorem State.takeLevel_nodes (s : State) : (s.takeLevel).nodes = s.nodes := rfl
@[simp] theorem State.takeLevel_scheduleRun (s : State) : (s.takeLevel).scheduleRun = s.scheduleRun := rfl
@[simp] theorem State.takeLevel_inFlight (s : State) : (s.takeLevel).inFlight = s.inFlight := rfl
@[simp] theorem State.takeLevel_receipts (s : State) : (s.takeLevel).receipts = s.receipts := rfl
@[simp] theorem State.takeLevel_store (s : State) : (s.takeLevel).store = s.store := rfl
@[simp] theorem State.takeLevel_owedOrder (s : State) : (s.takeLevel).owedOrder = s.owedOrder := rfl
@[simp] theorem State.takeLevel_now (s : State) : (s.takeLevel).now = s.now := rfl
@[simp] theorem State.takeLevel_phase (s : State) : (s.takeLevel).phase = s.phase := rfl
@[simp] theorem State.takeLevel_cycle (s : State) : (s.takeLevel).cycle = s.cycle := rfl
@[simp] theorem State.takeLevel_startKind (s : State) : (s.takeLevel).startKind = s.startKind := rfl
@[simp] theorem State.takeLevel_missRun (s : State) : (s.takeLevel).missRun = s.missRun := rfl
@[simp] theorem State.takeLevel_lossRaised (s : State) : (s.takeLevel).lossRaised = s.lossRaised := rfl
@[simp] theorem State.takeLevel_capture (s : State) : (s.takeLevel).capture = s.capture := rfl
@[simp] theorem State.takeLevel_sampled (s : State) : (s.takeLevel).sampled = s.sampled := rfl
@[simp] theorem State.takeLevel_qualifiedLevel (s : State) : (s.takeLevel).qualifiedLevel = (!s.qualifiedLevel) := rfl
@[simp] theorem State.takeLevel_syncRun (s : State) : (s.takeLevel).syncRun = 0 := rfl
@[simp] theorem State.takeLevel_levelChange (s : State) : (s.takeLevel).levelChange = none := rfl
@[simp] theorem State.takeLevel_schedule (s : State) : (s.takeLevel).schedule = s.schedule := rfl
@[simp] theorem State.takeLevel_delivery (s : State) : (s.takeLevel).delivery = s.delivery := rfl
@[simp] theorem State.takeLevel_advanceHeld (s : State) : (s.takeLevel).advanceHeld = s.advanceHeld := rfl
@[simp] theorem State.takeLevel_pending (s : State) : (s.takeLevel).pending = s.pending := rfl

/-! ### captureEdge -/

@[simp] theorem State.captureEdge_headPort (s : State) : (s.captureEdge).headPort = s.headPort := rfl
@[simp] theorem State.captureEdge_fieldPort (s : State) : (s.captureEdge).fieldPort = s.fieldPort := rfl
@[simp] theorem State.captureEdge_intake (s : State) : (s.captureEdge).intake = s.intake := rfl
@[simp] theorem State.captureEdge_params (s : State) : (s.captureEdge).params = s.params := rfl
@[simp] theorem State.captureEdge_stagedLength (s : State) : (s.captureEdge).stagedLength = s.stagedLength := rfl
@[simp] theorem State.captureEdge_flags (s : State) : (s.captureEdge).flags = s.flags := rfl
@[simp] theorem State.captureEdge_flagEvent (s : State) : (s.captureEdge).flagEvent = s.flagEvent := rfl
@[simp] theorem State.captureEdge_flagsOwed (s : State) : (s.captureEdge).flagsOwed = s.flagsOwed := rfl
@[simp] theorem State.captureEdge_counters (s : State) : (s.captureEdge).counters = s.counters := rfl
@[simp] theorem State.captureEdge_policies (s : State) : (s.captureEdge).policies = s.policies := rfl
@[simp] theorem State.captureEdge_slots (s : State) : (s.captureEdge).slots = s.slots := rfl
@[simp] theorem State.captureEdge_admissionCounter (s : State) :
    (s.captureEdge).admissionCounter = s.admissionCounter := rfl
@[simp] theorem State.captureEdge_pendingOrder (s : State) : (s.captureEdge).pendingOrder = s.pendingOrder := rfl
@[simp] theorem State.captureEdge_deferralList (s : State) : (s.captureEdge).deferralList = s.deferralList := rfl
@[simp] theorem State.captureEdge_nodes (s : State) : (s.captureEdge).nodes = s.nodes := rfl
@[simp] theorem State.captureEdge_scheduleRun (s : State) : (s.captureEdge).scheduleRun = s.scheduleRun := rfl
@[simp] theorem State.captureEdge_inFlight (s : State) : (s.captureEdge).inFlight = s.inFlight := rfl
@[simp] theorem State.captureEdge_receipts (s : State) : (s.captureEdge).receipts = s.receipts := rfl
@[simp] theorem State.captureEdge_store (s : State) : (s.captureEdge).store = s.store := rfl
@[simp] theorem State.captureEdge_owedOrder (s : State) : (s.captureEdge).owedOrder = s.owedOrder := rfl
@[simp] theorem State.captureEdge_now (s : State) : (s.captureEdge).now = s.now := rfl
@[simp] theorem State.captureEdge_phase (s : State) : (s.captureEdge).phase = s.phase := rfl
@[simp] theorem State.captureEdge_cycle (s : State) : (s.captureEdge).cycle = s.cycle := rfl
@[simp] theorem State.captureEdge_startKind (s : State) : (s.captureEdge).startKind = s.startKind := rfl
@[simp] theorem State.captureEdge_missRun (s : State) : (s.captureEdge).missRun = s.missRun := rfl
@[simp] theorem State.captureEdge_lossRaised (s : State) : (s.captureEdge).lossRaised = s.lossRaised := rfl
@[simp] theorem State.captureEdge_sampled (s : State) : (s.captureEdge).sampled = s.sampled := rfl
@[simp] theorem State.captureEdge_qualifiedLevel (s : State) :
    (s.captureEdge).qualifiedLevel = s.qualifiedLevel := rfl
@[simp] theorem State.captureEdge_syncRun (s : State) : (s.captureEdge).syncRun = s.syncRun := rfl
@[simp] theorem State.captureEdge_levelChange (s : State) : (s.captureEdge).levelChange = s.levelChange := rfl
@[simp] theorem State.captureEdge_schedule (s : State) : (s.captureEdge).schedule = s.schedule := rfl
@[simp] theorem State.captureEdge_delivery (s : State) : (s.captureEdge).delivery = s.delivery := rfl
@[simp] theorem State.captureEdge_advanceHeld (s : State) : (s.captureEdge).advanceHeld = s.advanceHeld := rfl
@[simp] theorem State.captureEdge_pending (s : State) : (s.captureEdge).pending = s.pending := rfl

/-! ### endMisses -/

@[simp] theorem State.endMisses_headPort (s : State) : (s.endMisses).headPort = s.headPort := rfl
@[simp] theorem State.endMisses_fieldPort (s : State) : (s.endMisses).fieldPort = s.fieldPort := rfl
@[simp] theorem State.endMisses_intake (s : State) : (s.endMisses).intake = s.intake := rfl
@[simp] theorem State.endMisses_params (s : State) : (s.endMisses).params = s.params := rfl
@[simp] theorem State.endMisses_stagedLength (s : State) : (s.endMisses).stagedLength = s.stagedLength := rfl
@[simp] theorem State.endMisses_flags (s : State) : (s.endMisses).flags = s.flags := rfl
@[simp] theorem State.endMisses_flagEvent (s : State) : (s.endMisses).flagEvent = s.flagEvent := rfl
@[simp] theorem State.endMisses_flagsOwed (s : State) : (s.endMisses).flagsOwed = s.flagsOwed := rfl
@[simp] theorem State.endMisses_counters (s : State) : (s.endMisses).counters = s.counters := rfl
@[simp] theorem State.endMisses_policies (s : State) : (s.endMisses).policies = s.policies := rfl
@[simp] theorem State.endMisses_slots (s : State) : (s.endMisses).slots = s.slots := rfl
@[simp] theorem State.endMisses_admissionCounter (s : State) :
    (s.endMisses).admissionCounter = s.admissionCounter := rfl
@[simp] theorem State.endMisses_pendingOrder (s : State) : (s.endMisses).pendingOrder = s.pendingOrder := rfl
@[simp] theorem State.endMisses_deferralList (s : State) : (s.endMisses).deferralList = s.deferralList := rfl
@[simp] theorem State.endMisses_nodes (s : State) : (s.endMisses).nodes = s.nodes := rfl
@[simp] theorem State.endMisses_scheduleRun (s : State) : (s.endMisses).scheduleRun = s.scheduleRun := rfl
@[simp] theorem State.endMisses_inFlight (s : State) : (s.endMisses).inFlight = s.inFlight := rfl
@[simp] theorem State.endMisses_receipts (s : State) : (s.endMisses).receipts = s.receipts := rfl
@[simp] theorem State.endMisses_store (s : State) : (s.endMisses).store = s.store := rfl
@[simp] theorem State.endMisses_owedOrder (s : State) : (s.endMisses).owedOrder = s.owedOrder := rfl
@[simp] theorem State.endMisses_now (s : State) : (s.endMisses).now = s.now := rfl
@[simp] theorem State.endMisses_phase (s : State) : (s.endMisses).phase = s.phase := rfl
@[simp] theorem State.endMisses_cycle (s : State) : (s.endMisses).cycle = s.cycle := rfl
@[simp] theorem State.endMisses_startKind (s : State) : (s.endMisses).startKind = s.startKind := rfl
@[simp] theorem State.endMisses_missRun (s : State) : (s.endMisses).missRun = 0 := rfl
@[simp] theorem State.endMisses_lossRaised (s : State) : (s.endMisses).lossRaised = false := rfl
@[simp] theorem State.endMisses_capture (s : State) : (s.endMisses).capture = s.capture := rfl
@[simp] theorem State.endMisses_sampled (s : State) : (s.endMisses).sampled = s.sampled := rfl
@[simp] theorem State.endMisses_qualifiedLevel (s : State) : (s.endMisses).qualifiedLevel = s.qualifiedLevel := rfl
@[simp] theorem State.endMisses_syncRun (s : State) : (s.endMisses).syncRun = s.syncRun := rfl
@[simp] theorem State.endMisses_levelChange (s : State) : (s.endMisses).levelChange = s.levelChange := rfl
@[simp] theorem State.endMisses_schedule (s : State) : (s.endMisses).schedule = s.schedule := rfl
@[simp] theorem State.endMisses_delivery (s : State) : (s.endMisses).delivery = s.delivery := rfl
@[simp] theorem State.endMisses_advanceHeld (s : State) : (s.endMisses).advanceHeld = s.advanceHeld := rfl
@[simp] theorem State.endMisses_pending (s : State) : (s.endMisses).pending = s.pending := rfl

/-! ### newCycle -/

@[simp] theorem State.newCycle_headPort (s : State) (k : StartKind) : (s.newCycle k).headPort = s.headPort := rfl
@[simp] theorem State.newCycle_fieldPort (s : State) (k : StartKind) : (s.newCycle k).fieldPort = s.fieldPort := rfl
@[simp] theorem State.newCycle_intake (s : State) (k : StartKind) : (s.newCycle k).intake = s.intake := rfl
@[simp] theorem State.newCycle_stagedLength (s : State) (k : StartKind) : (s.newCycle k).stagedLength = none := rfl
@[simp] theorem State.newCycle_flags (s : State) (k : StartKind) : (s.newCycle k).flags = s.flags := rfl
@[simp] theorem State.newCycle_flagEvent (s : State) (k : StartKind) : (s.newCycle k).flagEvent = s.flagEvent := rfl
@[simp] theorem State.newCycle_flagsOwed (s : State) (k : StartKind) : (s.newCycle k).flagsOwed = s.flagsOwed := rfl
@[simp] theorem State.newCycle_counters (s : State) (k : StartKind) : (s.newCycle k).counters = s.counters := rfl
@[simp] theorem State.newCycle_policies (s : State) (k : StartKind) : (s.newCycle k).policies = s.policies := rfl
@[simp] theorem State.newCycle_slots (s : State) (k : StartKind) : (s.newCycle k).slots = s.slots := rfl
@[simp] theorem State.newCycle_admissionCounter (s : State) (k : StartKind) :
    (s.newCycle k).admissionCounter = s.admissionCounter := rfl
@[simp] theorem State.newCycle_pendingOrder (s : State) (k : StartKind) :
    (s.newCycle k).pendingOrder = s.pendingOrder := rfl
@[simp] theorem State.newCycle_deferralList (s : State) (k : StartKind) :
    (s.newCycle k).deferralList = s.deferralList := rfl
@[simp] theorem State.newCycle_nodes (s : State) (k : StartKind) : (s.newCycle k).nodes = s.nodes := rfl
@[simp] theorem State.newCycle_scheduleRun (s : State) (k : StartKind) :
    (s.newCycle k).scheduleRun = s.scheduleRun := rfl
@[simp] theorem State.newCycle_inFlight (s : State) (k : StartKind) : (s.newCycle k).inFlight = s.inFlight := rfl
@[simp] theorem State.newCycle_receipts (s : State) (k : StartKind) : (s.newCycle k).receipts = s.receipts := rfl
@[simp] theorem State.newCycle_store (s : State) (k : StartKind) : (s.newCycle k).store = s.store := rfl
@[simp] theorem State.newCycle_owedOrder (s : State) (k : StartKind) : (s.newCycle k).owedOrder = s.owedOrder := rfl
@[simp] theorem State.newCycle_now (s : State) (k : StartKind) : (s.newCycle k).now = s.now := rfl
@[simp] theorem State.newCycle_phase (s : State) (k : StartKind) : (s.newCycle k).phase = 0 := rfl
@[simp] theorem State.newCycle_cycle (s : State) (k : StartKind) : (s.newCycle k).cycle = s.cycle + 1 := rfl
@[simp] theorem State.newCycle_startKind (s : State) (k : StartKind) : (s.newCycle k).startKind = k := rfl
@[simp] theorem State.newCycle_lossRaised (s : State) (k : StartKind) :
    (s.newCycle k).lossRaised = (s.lossRaised || s.losesSync k) := rfl
@[simp] theorem State.newCycle_sampled (s : State) (k : StartKind) : (s.newCycle k).sampled = s.sampled := rfl
@[simp] theorem State.newCycle_qualifiedLevel (s : State) (k : StartKind) :
    (s.newCycle k).qualifiedLevel = s.qualifiedLevel := rfl
@[simp] theorem State.newCycle_syncRun (s : State) (k : StartKind) : (s.newCycle k).syncRun = s.syncRun := rfl
@[simp] theorem State.newCycle_levelChange (s : State) (k : StartKind) :
    (s.newCycle k).levelChange = s.levelChange := rfl
@[simp] theorem State.newCycle_schedule (s : State) (k : StartKind) : (s.newCycle k).schedule = s.schedule := rfl
@[simp] theorem State.newCycle_delivery (s : State) (k : StartKind) : (s.newCycle k).delivery = s.delivery := rfl
@[simp] theorem State.newCycle_advanceHeld (s : State) (k : StartKind) :
    (s.newCycle k).advanceHeld = s.advanceHeld := rfl
@[simp] theorem State.newCycle_pending (s : State) (k : StartKind) : (s.newCycle k).pending = s.pending := rfl

/-! ### raiseFlagIf -/

@[simp] theorem State.raiseFlagIf_headPort (s : State) (b : Bool) (f : Flag) : (s.raiseFlagIf b f).headPort = s.headPort := by
  unfold State.raiseFlagIf; split <;> rfl
@[simp] theorem State.raiseFlagIf_fieldPort (s : State) (b : Bool) (f : Flag) : (s.raiseFlagIf b f).fieldPort = s.fieldPort := by
  unfold State.raiseFlagIf; split <;> rfl
@[simp] theorem State.raiseFlagIf_intake (s : State) (b : Bool) (f : Flag) : (s.raiseFlagIf b f).intake = s.intake := by
  unfold State.raiseFlagIf; split <;> rfl
@[simp] theorem State.raiseFlagIf_params (s : State) (b : Bool) (f : Flag) : (s.raiseFlagIf b f).params = s.params := by
  unfold State.raiseFlagIf; split <;> rfl
@[simp] theorem State.raiseFlagIf_stagedLength (s : State) (b : Bool) (f : Flag) : (s.raiseFlagIf b f).stagedLength = s.stagedLength := by
  unfold State.raiseFlagIf; split <;> rfl
@[simp] theorem State.raiseFlagIf_counters (s : State) (b : Bool) (f : Flag) : (s.raiseFlagIf b f).counters = s.counters := by
  unfold State.raiseFlagIf; split <;> rfl
@[simp] theorem State.raiseFlagIf_policies (s : State) (b : Bool) (f : Flag) : (s.raiseFlagIf b f).policies = s.policies := by
  unfold State.raiseFlagIf; split <;> rfl
@[simp] theorem State.raiseFlagIf_slots (s : State) (b : Bool) (f : Flag) : (s.raiseFlagIf b f).slots = s.slots := by
  unfold State.raiseFlagIf; split <;> rfl
@[simp] theorem State.raiseFlagIf_admissionCounter (s : State) (b : Bool) (f : Flag) : (s.raiseFlagIf b f).admissionCounter = s.admissionCounter := by
  unfold State.raiseFlagIf; split <;> rfl
@[simp] theorem State.raiseFlagIf_pendingOrder (s : State) (b : Bool) (f : Flag) : (s.raiseFlagIf b f).pendingOrder = s.pendingOrder := by
  unfold State.raiseFlagIf; split <;> rfl
@[simp] theorem State.raiseFlagIf_deferralList (s : State) (b : Bool) (f : Flag) : (s.raiseFlagIf b f).deferralList = s.deferralList := by
  unfold State.raiseFlagIf; split <;> rfl
@[simp] theorem State.raiseFlagIf_nodes (s : State) (b : Bool) (f : Flag) : (s.raiseFlagIf b f).nodes = s.nodes := by
  unfold State.raiseFlagIf; split <;> rfl
@[simp] theorem State.raiseFlagIf_scheduleRun (s : State) (b : Bool) (f : Flag) : (s.raiseFlagIf b f).scheduleRun = s.scheduleRun := by
  unfold State.raiseFlagIf; split <;> rfl
@[simp] theorem State.raiseFlagIf_inFlight (s : State) (b : Bool) (f : Flag) : (s.raiseFlagIf b f).inFlight = s.inFlight := by
  unfold State.raiseFlagIf; split <;> rfl
@[simp] theorem State.raiseFlagIf_receipts (s : State) (b : Bool) (f : Flag) : (s.raiseFlagIf b f).receipts = s.receipts := by
  unfold State.raiseFlagIf; split <;> rfl
@[simp] theorem State.raiseFlagIf_store (s : State) (b : Bool) (f : Flag) : (s.raiseFlagIf b f).store = s.store := by
  unfold State.raiseFlagIf; split <;> rfl
@[simp] theorem State.raiseFlagIf_owedOrder (s : State) (b : Bool) (f : Flag) : (s.raiseFlagIf b f).owedOrder = s.owedOrder := by
  unfold State.raiseFlagIf; split <;> rfl
@[simp] theorem State.raiseFlagIf_now (s : State) (b : Bool) (f : Flag) : (s.raiseFlagIf b f).now = s.now := by
  unfold State.raiseFlagIf; split <;> rfl
@[simp] theorem State.raiseFlagIf_phase (s : State) (b : Bool) (f : Flag) : (s.raiseFlagIf b f).phase = s.phase := by
  unfold State.raiseFlagIf; split <;> rfl
@[simp] theorem State.raiseFlagIf_cycle (s : State) (b : Bool) (f : Flag) : (s.raiseFlagIf b f).cycle = s.cycle := by
  unfold State.raiseFlagIf; split <;> rfl
@[simp] theorem State.raiseFlagIf_startKind (s : State) (b : Bool) (f : Flag) : (s.raiseFlagIf b f).startKind = s.startKind := by
  unfold State.raiseFlagIf; split <;> rfl
@[simp] theorem State.raiseFlagIf_missRun (s : State) (b : Bool) (f : Flag) : (s.raiseFlagIf b f).missRun = s.missRun := by
  unfold State.raiseFlagIf; split <;> rfl
@[simp] theorem State.raiseFlagIf_lossRaised (s : State) (b : Bool) (f : Flag) : (s.raiseFlagIf b f).lossRaised = s.lossRaised := by
  unfold State.raiseFlagIf; split <;> rfl
@[simp] theorem State.raiseFlagIf_capture (s : State) (b : Bool) (f : Flag) : (s.raiseFlagIf b f).capture = s.capture := by
  unfold State.raiseFlagIf; split <;> rfl
@[simp] theorem State.raiseFlagIf_sampled (s : State) (b : Bool) (f : Flag) : (s.raiseFlagIf b f).sampled = s.sampled := by
  unfold State.raiseFlagIf; split <;> rfl
@[simp] theorem State.raiseFlagIf_qualifiedLevel (s : State) (b : Bool) (f : Flag) : (s.raiseFlagIf b f).qualifiedLevel = s.qualifiedLevel := by
  unfold State.raiseFlagIf; split <;> rfl
@[simp] theorem State.raiseFlagIf_syncRun (s : State) (b : Bool) (f : Flag) : (s.raiseFlagIf b f).syncRun = s.syncRun := by
  unfold State.raiseFlagIf; split <;> rfl
@[simp] theorem State.raiseFlagIf_levelChange (s : State) (b : Bool) (f : Flag) : (s.raiseFlagIf b f).levelChange = s.levelChange := by
  unfold State.raiseFlagIf; split <;> rfl
@[simp] theorem State.raiseFlagIf_schedule (s : State) (b : Bool) (f : Flag) : (s.raiseFlagIf b f).schedule = s.schedule := by
  unfold State.raiseFlagIf; split <;> rfl
@[simp] theorem State.raiseFlagIf_delivery (s : State) (b : Bool) (f : Flag) : (s.raiseFlagIf b f).delivery = s.delivery := by
  unfold State.raiseFlagIf; split <;> rfl
@[simp] theorem State.raiseFlagIf_advanceHeld (s : State) (b : Bool) (f : Flag) : (s.raiseFlagIf b f).advanceHeld = s.advanceHeld := by
  unfold State.raiseFlagIf; split <;> rfl
@[simp] theorem State.raiseFlagIf_pending (s : State) (b : Bool) (f : Flag) : (s.raiseFlagIf b f).pending = s.pending := by
  unfold State.raiseFlagIf; split <;> rfl

/-! ### oweReceipt -/

@[simp] theorem State.oweReceipt_headPort (s : State) (r : Receipt) : (s.oweReceipt r).headPort = s.headPort := by
  unfold State.oweReceipt; split <;> rfl
@[simp] theorem State.oweReceipt_fieldPort (s : State) (r : Receipt) : (s.oweReceipt r).fieldPort = s.fieldPort := by
  unfold State.oweReceipt; split <;> rfl
@[simp] theorem State.oweReceipt_intake (s : State) (r : Receipt) : (s.oweReceipt r).intake = s.intake := by
  unfold State.oweReceipt; split <;> rfl
@[simp] theorem State.oweReceipt_params (s : State) (r : Receipt) : (s.oweReceipt r).params = s.params := by
  unfold State.oweReceipt; split <;> rfl
@[simp] theorem State.oweReceipt_stagedLength (s : State) (r : Receipt) : (s.oweReceipt r).stagedLength = s.stagedLength := by
  unfold State.oweReceipt; split <;> rfl
@[simp] theorem State.oweReceipt_flags (s : State) (r : Receipt) : (s.oweReceipt r).flags = s.flags := by
  unfold State.oweReceipt; split <;> rfl
@[simp] theorem State.oweReceipt_flagEvent (s : State) (r : Receipt) : (s.oweReceipt r).flagEvent = s.flagEvent := by
  unfold State.oweReceipt; split <;> rfl
@[simp] theorem State.oweReceipt_flagsOwed (s : State) (r : Receipt) : (s.oweReceipt r).flagsOwed = s.flagsOwed := by
  unfold State.oweReceipt; split <;> rfl
@[simp] theorem State.oweReceipt_policies (s : State) (r : Receipt) : (s.oweReceipt r).policies = s.policies := by
  unfold State.oweReceipt; split <;> rfl
@[simp] theorem State.oweReceipt_slots (s : State) (r : Receipt) : (s.oweReceipt r).slots = s.slots := by
  unfold State.oweReceipt; split <;> rfl
@[simp] theorem State.oweReceipt_admissionCounter (s : State) (r : Receipt) : (s.oweReceipt r).admissionCounter = s.admissionCounter := by
  unfold State.oweReceipt; split <;> rfl
@[simp] theorem State.oweReceipt_pendingOrder (s : State) (r : Receipt) : (s.oweReceipt r).pendingOrder = s.pendingOrder := by
  unfold State.oweReceipt; split <;> rfl
@[simp] theorem State.oweReceipt_deferralList (s : State) (r : Receipt) : (s.oweReceipt r).deferralList = s.deferralList := by
  unfold State.oweReceipt; split <;> rfl
@[simp] theorem State.oweReceipt_nodes (s : State) (r : Receipt) : (s.oweReceipt r).nodes = s.nodes := by
  unfold State.oweReceipt; split <;> rfl
@[simp] theorem State.oweReceipt_scheduleRun (s : State) (r : Receipt) : (s.oweReceipt r).scheduleRun = s.scheduleRun := by
  unfold State.oweReceipt; split <;> rfl
@[simp] theorem State.oweReceipt_inFlight (s : State) (r : Receipt) : (s.oweReceipt r).inFlight = s.inFlight := by
  unfold State.oweReceipt; split <;> rfl
@[simp] theorem State.oweReceipt_store (s : State) (r : Receipt) : (s.oweReceipt r).store = s.store := by
  unfold State.oweReceipt; split <;> rfl
@[simp] theorem State.oweReceipt_owedOrder (s : State) (r : Receipt) : (s.oweReceipt r).owedOrder = s.owedOrder := by
  unfold State.oweReceipt; split <;> rfl
@[simp] theorem State.oweReceipt_now (s : State) (r : Receipt) : (s.oweReceipt r).now = s.now := by
  unfold State.oweReceipt; split <;> rfl
@[simp] theorem State.oweReceipt_phase (s : State) (r : Receipt) : (s.oweReceipt r).phase = s.phase := by
  unfold State.oweReceipt; split <;> rfl
@[simp] theorem State.oweReceipt_cycle (s : State) (r : Receipt) : (s.oweReceipt r).cycle = s.cycle := by
  unfold State.oweReceipt; split <;> rfl
@[simp] theorem State.oweReceipt_startKind (s : State) (r : Receipt) : (s.oweReceipt r).startKind = s.startKind := by
  unfold State.oweReceipt; split <;> rfl
@[simp] theorem State.oweReceipt_missRun (s : State) (r : Receipt) : (s.oweReceipt r).missRun = s.missRun := by
  unfold State.oweReceipt; split <;> rfl
@[simp] theorem State.oweReceipt_lossRaised (s : State) (r : Receipt) : (s.oweReceipt r).lossRaised = s.lossRaised := by
  unfold State.oweReceipt; split <;> rfl
@[simp] theorem State.oweReceipt_capture (s : State) (r : Receipt) : (s.oweReceipt r).capture = s.capture := by
  unfold State.oweReceipt; split <;> rfl
@[simp] theorem State.oweReceipt_sampled (s : State) (r : Receipt) : (s.oweReceipt r).sampled = s.sampled := by
  unfold State.oweReceipt; split <;> rfl
@[simp] theorem State.oweReceipt_qualifiedLevel (s : State) (r : Receipt) : (s.oweReceipt r).qualifiedLevel = s.qualifiedLevel := by
  unfold State.oweReceipt; split <;> rfl
@[simp] theorem State.oweReceipt_syncRun (s : State) (r : Receipt) : (s.oweReceipt r).syncRun = s.syncRun := by
  unfold State.oweReceipt; split <;> rfl
@[simp] theorem State.oweReceipt_levelChange (s : State) (r : Receipt) : (s.oweReceipt r).levelChange = s.levelChange := by
  unfold State.oweReceipt; split <;> rfl
@[simp] theorem State.oweReceipt_schedule (s : State) (r : Receipt) : (s.oweReceipt r).schedule = s.schedule := by
  unfold State.oweReceipt; split <;> rfl
@[simp] theorem State.oweReceipt_delivery (s : State) (r : Receipt) : (s.oweReceipt r).delivery = s.delivery := by
  unfold State.oweReceipt; split <;> rfl
@[simp] theorem State.oweReceipt_advanceHeld (s : State) (r : Receipt) : (s.oweReceipt r).advanceHeld = s.advanceHeld := by
  unfold State.oweReceipt; split <;> rfl
@[simp] theorem State.oweReceipt_pending (s : State) (r : Receipt) : (s.oweReceipt r).pending = s.pending := by
  unfold State.oweReceipt; split <;> rfl

/-! ### tallyCutShort -/

@[simp] theorem State.tallyCutShort_headPort (s : State) (l : Line) : (s.tallyCutShort l).headPort = s.headPort := by
  unfold State.tallyCutShort; split <;> rfl
@[simp] theorem State.tallyCutShort_fieldPort (s : State) (l : Line) : (s.tallyCutShort l).fieldPort = s.fieldPort := by
  unfold State.tallyCutShort; split <;> rfl
@[simp] theorem State.tallyCutShort_intake (s : State) (l : Line) : (s.tallyCutShort l).intake = s.intake := by
  unfold State.tallyCutShort; split <;> rfl
@[simp] theorem State.tallyCutShort_params (s : State) (l : Line) : (s.tallyCutShort l).params = s.params := by
  unfold State.tallyCutShort; split <;> rfl
@[simp] theorem State.tallyCutShort_stagedLength (s : State) (l : Line) : (s.tallyCutShort l).stagedLength = s.stagedLength := by
  unfold State.tallyCutShort; split <;> rfl
@[simp] theorem State.tallyCutShort_flags (s : State) (l : Line) : (s.tallyCutShort l).flags = s.flags := by
  unfold State.tallyCutShort; split <;> rfl
@[simp] theorem State.tallyCutShort_flagEvent (s : State) (l : Line) : (s.tallyCutShort l).flagEvent = s.flagEvent := by
  unfold State.tallyCutShort; split <;> rfl
@[simp] theorem State.tallyCutShort_flagsOwed (s : State) (l : Line) : (s.tallyCutShort l).flagsOwed = s.flagsOwed := by
  unfold State.tallyCutShort; split <;> rfl
@[simp] theorem State.tallyCutShort_policies (s : State) (l : Line) : (s.tallyCutShort l).policies = s.policies := by
  unfold State.tallyCutShort; split <;> rfl
@[simp] theorem State.tallyCutShort_slots (s : State) (l : Line) : (s.tallyCutShort l).slots = s.slots := by
  unfold State.tallyCutShort; split <;> rfl
@[simp] theorem State.tallyCutShort_admissionCounter (s : State) (l : Line) : (s.tallyCutShort l).admissionCounter = s.admissionCounter := by
  unfold State.tallyCutShort; split <;> rfl
@[simp] theorem State.tallyCutShort_pendingOrder (s : State) (l : Line) : (s.tallyCutShort l).pendingOrder = s.pendingOrder := by
  unfold State.tallyCutShort; split <;> rfl
@[simp] theorem State.tallyCutShort_deferralList (s : State) (l : Line) : (s.tallyCutShort l).deferralList = s.deferralList := by
  unfold State.tallyCutShort; split <;> rfl
@[simp] theorem State.tallyCutShort_nodes (s : State) (l : Line) : (s.tallyCutShort l).nodes = s.nodes := by
  unfold State.tallyCutShort; split <;> rfl
@[simp] theorem State.tallyCutShort_scheduleRun (s : State) (l : Line) : (s.tallyCutShort l).scheduleRun = s.scheduleRun := by
  unfold State.tallyCutShort; split <;> rfl
@[simp] theorem State.tallyCutShort_inFlight (s : State) (l : Line) : (s.tallyCutShort l).inFlight = s.inFlight := by
  unfold State.tallyCutShort; split <;> rfl
@[simp] theorem State.tallyCutShort_receipts (s : State) (l : Line) : (s.tallyCutShort l).receipts = s.receipts := by
  unfold State.tallyCutShort; split <;> rfl
@[simp] theorem State.tallyCutShort_store (s : State) (l : Line) : (s.tallyCutShort l).store = s.store := by
  unfold State.tallyCutShort; split <;> rfl
@[simp] theorem State.tallyCutShort_owedOrder (s : State) (l : Line) : (s.tallyCutShort l).owedOrder = s.owedOrder := by
  unfold State.tallyCutShort; split <;> rfl
@[simp] theorem State.tallyCutShort_now (s : State) (l : Line) : (s.tallyCutShort l).now = s.now := by
  unfold State.tallyCutShort; split <;> rfl
@[simp] theorem State.tallyCutShort_phase (s : State) (l : Line) : (s.tallyCutShort l).phase = s.phase := by
  unfold State.tallyCutShort; split <;> rfl
@[simp] theorem State.tallyCutShort_cycle (s : State) (l : Line) : (s.tallyCutShort l).cycle = s.cycle := by
  unfold State.tallyCutShort; split <;> rfl
@[simp] theorem State.tallyCutShort_startKind (s : State) (l : Line) : (s.tallyCutShort l).startKind = s.startKind := by
  unfold State.tallyCutShort; split <;> rfl
@[simp] theorem State.tallyCutShort_missRun (s : State) (l : Line) : (s.tallyCutShort l).missRun = s.missRun := by
  unfold State.tallyCutShort; split <;> rfl
@[simp] theorem State.tallyCutShort_lossRaised (s : State) (l : Line) : (s.tallyCutShort l).lossRaised = s.lossRaised := by
  unfold State.tallyCutShort; split <;> rfl
@[simp] theorem State.tallyCutShort_capture (s : State) (l : Line) : (s.tallyCutShort l).capture = s.capture := by
  unfold State.tallyCutShort; split <;> rfl
@[simp] theorem State.tallyCutShort_sampled (s : State) (l : Line) : (s.tallyCutShort l).sampled = s.sampled := by
  unfold State.tallyCutShort; split <;> rfl
@[simp] theorem State.tallyCutShort_qualifiedLevel (s : State) (l : Line) : (s.tallyCutShort l).qualifiedLevel = s.qualifiedLevel := by
  unfold State.tallyCutShort; split <;> rfl
@[simp] theorem State.tallyCutShort_syncRun (s : State) (l : Line) : (s.tallyCutShort l).syncRun = s.syncRun := by
  unfold State.tallyCutShort; split <;> rfl
@[simp] theorem State.tallyCutShort_levelChange (s : State) (l : Line) : (s.tallyCutShort l).levelChange = s.levelChange := by
  unfold State.tallyCutShort; split <;> rfl
@[simp] theorem State.tallyCutShort_schedule (s : State) (l : Line) : (s.tallyCutShort l).schedule = s.schedule := by
  unfold State.tallyCutShort; split <;> rfl
@[simp] theorem State.tallyCutShort_delivery (s : State) (l : Line) : (s.tallyCutShort l).delivery = s.delivery := by
  unfold State.tallyCutShort; split <;> rfl
@[simp] theorem State.tallyCutShort_advanceHeld (s : State) (l : Line) : (s.tallyCutShort l).advanceHeld = s.advanceHeld := by
  unfold State.tallyCutShort; split <;> rfl
@[simp] theorem State.tallyCutShort_pending (s : State) (l : Line) : (s.tallyCutShort l).pending = s.pending := by
  unfold State.tallyCutShort; split <;> rfl

/-! ### endFieldReceive -/

@[simp] theorem State.endFieldReceive_headPort (s : State) (a : Bool) : (s.endFieldReceive a).headPort = s.headPort := by
  unfold State.endFieldReceive; split <;> simp
@[simp] theorem State.endFieldReceive_intake (s : State) (a : Bool) : (s.endFieldReceive a).intake = s.intake := by
  unfold State.endFieldReceive; split <;> simp
@[simp] theorem State.endFieldReceive_params (s : State) (a : Bool) : (s.endFieldReceive a).params = s.params := by
  unfold State.endFieldReceive; split <;> simp
@[simp] theorem State.endFieldReceive_stagedLength (s : State) (a : Bool) : (s.endFieldReceive a).stagedLength = s.stagedLength := by
  unfold State.endFieldReceive; split <;> simp
@[simp] theorem State.endFieldReceive_flags (s : State) (a : Bool) : (s.endFieldReceive a).flags = s.flags := by
  unfold State.endFieldReceive; split <;> simp
@[simp] theorem State.endFieldReceive_flagEvent (s : State) (a : Bool) : (s.endFieldReceive a).flagEvent = s.flagEvent := by
  unfold State.endFieldReceive; split <;> simp
@[simp] theorem State.endFieldReceive_flagsOwed (s : State) (a : Bool) : (s.endFieldReceive a).flagsOwed = s.flagsOwed := by
  unfold State.endFieldReceive; split <;> simp
@[simp] theorem State.endFieldReceive_policies (s : State) (a : Bool) : (s.endFieldReceive a).policies = s.policies := by
  unfold State.endFieldReceive; split <;> simp
@[simp] theorem State.endFieldReceive_slots (s : State) (a : Bool) : (s.endFieldReceive a).slots = s.slots := by
  unfold State.endFieldReceive; split <;> simp
@[simp] theorem State.endFieldReceive_admissionCounter (s : State) (a : Bool) : (s.endFieldReceive a).admissionCounter = s.admissionCounter := by
  unfold State.endFieldReceive; split <;> simp
@[simp] theorem State.endFieldReceive_pendingOrder (s : State) (a : Bool) : (s.endFieldReceive a).pendingOrder = s.pendingOrder := by
  unfold State.endFieldReceive; split <;> simp
@[simp] theorem State.endFieldReceive_deferralList (s : State) (a : Bool) : (s.endFieldReceive a).deferralList = s.deferralList := by
  unfold State.endFieldReceive; split <;> simp
@[simp] theorem State.endFieldReceive_nodes (s : State) (a : Bool) : (s.endFieldReceive a).nodes = s.nodes := by
  unfold State.endFieldReceive; split <;> simp
@[simp] theorem State.endFieldReceive_scheduleRun (s : State) (a : Bool) : (s.endFieldReceive a).scheduleRun = s.scheduleRun := by
  unfold State.endFieldReceive; split <;> simp
@[simp] theorem State.endFieldReceive_inFlight (s : State) (a : Bool) : (s.endFieldReceive a).inFlight = s.inFlight := by
  unfold State.endFieldReceive; split <;> simp
@[simp] theorem State.endFieldReceive_receipts (s : State) (a : Bool) : (s.endFieldReceive a).receipts = s.receipts := by
  unfold State.endFieldReceive; split <;> simp
@[simp] theorem State.endFieldReceive_store (s : State) (a : Bool) : (s.endFieldReceive a).store = s.store := by
  unfold State.endFieldReceive; split <;> simp
@[simp] theorem State.endFieldReceive_owedOrder (s : State) (a : Bool) : (s.endFieldReceive a).owedOrder = s.owedOrder := by
  unfold State.endFieldReceive; split <;> simp
@[simp] theorem State.endFieldReceive_now (s : State) (a : Bool) : (s.endFieldReceive a).now = s.now := by
  unfold State.endFieldReceive; split <;> simp
@[simp] theorem State.endFieldReceive_phase (s : State) (a : Bool) : (s.endFieldReceive a).phase = s.phase := by
  unfold State.endFieldReceive; split <;> simp
@[simp] theorem State.endFieldReceive_cycle (s : State) (a : Bool) : (s.endFieldReceive a).cycle = s.cycle := by
  unfold State.endFieldReceive; split <;> simp
@[simp] theorem State.endFieldReceive_startKind (s : State) (a : Bool) : (s.endFieldReceive a).startKind = s.startKind := by
  unfold State.endFieldReceive; split <;> simp
@[simp] theorem State.endFieldReceive_missRun (s : State) (a : Bool) : (s.endFieldReceive a).missRun = s.missRun := by
  unfold State.endFieldReceive; split <;> simp
@[simp] theorem State.endFieldReceive_lossRaised (s : State) (a : Bool) : (s.endFieldReceive a).lossRaised = s.lossRaised := by
  unfold State.endFieldReceive; split <;> simp
@[simp] theorem State.endFieldReceive_capture (s : State) (a : Bool) : (s.endFieldReceive a).capture = s.capture := by
  unfold State.endFieldReceive; split <;> simp
@[simp] theorem State.endFieldReceive_sampled (s : State) (a : Bool) : (s.endFieldReceive a).sampled = s.sampled := by
  unfold State.endFieldReceive; split <;> simp
@[simp] theorem State.endFieldReceive_qualifiedLevel (s : State) (a : Bool) : (s.endFieldReceive a).qualifiedLevel = s.qualifiedLevel := by
  unfold State.endFieldReceive; split <;> simp
@[simp] theorem State.endFieldReceive_syncRun (s : State) (a : Bool) : (s.endFieldReceive a).syncRun = s.syncRun := by
  unfold State.endFieldReceive; split <;> simp
@[simp] theorem State.endFieldReceive_levelChange (s : State) (a : Bool) : (s.endFieldReceive a).levelChange = s.levelChange := by
  unfold State.endFieldReceive; split <;> simp
@[simp] theorem State.endFieldReceive_schedule (s : State) (a : Bool) : (s.endFieldReceive a).schedule = s.schedule := by
  unfold State.endFieldReceive; split <;> simp
@[simp] theorem State.endFieldReceive_delivery (s : State) (a : Bool) : (s.endFieldReceive a).delivery = s.delivery := by
  unfold State.endFieldReceive; split <;> simp
@[simp] theorem State.endFieldReceive_advanceHeld (s : State) (a : Bool) : (s.endFieldReceive a).advanceHeld = s.advanceHeld := by
  unfold State.endFieldReceive; split <;> simp
@[simp] theorem State.endFieldReceive_pending (s : State) (a : Bool) : (s.endFieldReceive a).pending = s.pending := by
  unfold State.endFieldReceive; split <;> simp

/-! ### clearReference -/

@[simp] theorem State.clearReference_headPort (s : State) (i : Slot) (o : Origin) : (s.clearReference i o).headPort = s.headPort := by
  cases o <;> rfl
@[simp] theorem State.clearReference_fieldPort (s : State) (i : Slot) (o : Origin) : (s.clearReference i o).fieldPort = s.fieldPort := by
  cases o <;> rfl
@[simp] theorem State.clearReference_intake (s : State) (i : Slot) (o : Origin) : (s.clearReference i o).intake = s.intake := by
  cases o <;> rfl
@[simp] theorem State.clearReference_params (s : State) (i : Slot) (o : Origin) : (s.clearReference i o).params = s.params := by
  cases o <;> rfl
@[simp] theorem State.clearReference_stagedLength (s : State) (i : Slot) (o : Origin) : (s.clearReference i o).stagedLength = s.stagedLength := by
  cases o <;> rfl
@[simp] theorem State.clearReference_flags (s : State) (i : Slot) (o : Origin) : (s.clearReference i o).flags = s.flags := by
  cases o <;> rfl
@[simp] theorem State.clearReference_flagEvent (s : State) (i : Slot) (o : Origin) : (s.clearReference i o).flagEvent = s.flagEvent := by
  cases o <;> rfl
@[simp] theorem State.clearReference_flagsOwed (s : State) (i : Slot) (o : Origin) : (s.clearReference i o).flagsOwed = s.flagsOwed := by
  cases o <;> rfl
@[simp] theorem State.clearReference_counters (s : State) (i : Slot) (o : Origin) : (s.clearReference i o).counters = s.counters := by
  cases o <;> rfl
@[simp] theorem State.clearReference_policies (s : State) (i : Slot) (o : Origin) : (s.clearReference i o).policies = s.policies := by
  cases o <;> rfl
@[simp] theorem State.clearReference_slots (s : State) (i : Slot) (o : Origin) : (s.clearReference i o).slots = s.slots := by
  cases o <;> rfl
@[simp] theorem State.clearReference_admissionCounter (s : State) (i : Slot) (o : Origin) : (s.clearReference i o).admissionCounter = s.admissionCounter := by
  cases o <;> rfl
@[simp] theorem State.clearReference_pendingOrder (s : State) (i : Slot) (o : Origin) : (s.clearReference i o).pendingOrder = s.pendingOrder := by
  cases o <;> rfl
@[simp] theorem State.clearReference_deferralList (s : State) (i : Slot) (o : Origin) : (s.clearReference i o).deferralList = s.deferralList := by
  cases o <;> rfl
@[simp] theorem State.clearReference_nodes (s : State) (i : Slot) (o : Origin) : (s.clearReference i o).nodes = s.nodes := by
  cases o <;> rfl
@[simp] theorem State.clearReference_scheduleRun (s : State) (i : Slot) (o : Origin) : (s.clearReference i o).scheduleRun = s.scheduleRun := by
  cases o <;> rfl
@[simp] theorem State.clearReference_inFlight (s : State) (i : Slot) (o : Origin) : (s.clearReference i o).inFlight = s.inFlight := by
  cases o <;> rfl
@[simp] theorem State.clearReference_receipts (s : State) (i : Slot) (o : Origin) : (s.clearReference i o).receipts = s.receipts := by
  cases o <;> rfl
@[simp] theorem State.clearReference_store (s : State) (i : Slot) (o : Origin) : (s.clearReference i o).store = s.store := by
  cases o <;> rfl
@[simp] theorem State.clearReference_owedOrder (s : State) (i : Slot) (o : Origin) : (s.clearReference i o).owedOrder = s.owedOrder := by
  cases o <;> rfl
@[simp] theorem State.clearReference_now (s : State) (i : Slot) (o : Origin) : (s.clearReference i o).now = s.now := by
  cases o <;> rfl
@[simp] theorem State.clearReference_phase (s : State) (i : Slot) (o : Origin) : (s.clearReference i o).phase = s.phase := by
  cases o <;> rfl
@[simp] theorem State.clearReference_cycle (s : State) (i : Slot) (o : Origin) : (s.clearReference i o).cycle = s.cycle := by
  cases o <;> rfl
@[simp] theorem State.clearReference_startKind (s : State) (i : Slot) (o : Origin) : (s.clearReference i o).startKind = s.startKind := by
  cases o <;> rfl
@[simp] theorem State.clearReference_missRun (s : State) (i : Slot) (o : Origin) : (s.clearReference i o).missRun = s.missRun := by
  cases o <;> rfl
@[simp] theorem State.clearReference_lossRaised (s : State) (i : Slot) (o : Origin) : (s.clearReference i o).lossRaised = s.lossRaised := by
  cases o <;> rfl
@[simp] theorem State.clearReference_capture (s : State) (i : Slot) (o : Origin) : (s.clearReference i o).capture = s.capture := by
  cases o <;> rfl
@[simp] theorem State.clearReference_sampled (s : State) (i : Slot) (o : Origin) : (s.clearReference i o).sampled = s.sampled := by
  cases o <;> rfl
@[simp] theorem State.clearReference_qualifiedLevel (s : State) (i : Slot) (o : Origin) : (s.clearReference i o).qualifiedLevel = s.qualifiedLevel := by
  cases o <;> rfl
@[simp] theorem State.clearReference_syncRun (s : State) (i : Slot) (o : Origin) : (s.clearReference i o).syncRun = s.syncRun := by
  cases o <;> rfl
@[simp] theorem State.clearReference_levelChange (s : State) (i : Slot) (o : Origin) : (s.clearReference i o).levelChange = s.levelChange := by
  cases o <;> rfl
@[simp] theorem State.clearReference_delivery (s : State) (i : Slot) (o : Origin) : (s.clearReference i o).delivery = s.delivery := by
  cases o <;> rfl
@[simp] theorem State.clearReference_advanceHeld (s : State) (i : Slot) (o : Origin) : (s.clearReference i o).advanceHeld = s.advanceHeld := by
  cases o <;> rfl
@[simp] theorem State.clearReference_pending (s : State) (i : Slot) (o : Origin) : (s.clearReference i o).pending = s.pending := by
  cases o <;> rfl

/-! ### releaseSlot -/

@[simp] theorem State.releaseSlot_headPort (s : State) (i : Slot) : (s.releaseSlot i).headPort = s.headPort := by
  unfold State.releaseSlot; split <;> simp
@[simp] theorem State.releaseSlot_fieldPort (s : State) (i : Slot) : (s.releaseSlot i).fieldPort = s.fieldPort := by
  unfold State.releaseSlot; split <;> simp
@[simp] theorem State.releaseSlot_intake (s : State) (i : Slot) : (s.releaseSlot i).intake = s.intake := by
  unfold State.releaseSlot; split <;> simp
@[simp] theorem State.releaseSlot_params (s : State) (i : Slot) : (s.releaseSlot i).params = s.params := by
  unfold State.releaseSlot; split <;> simp
@[simp] theorem State.releaseSlot_stagedLength (s : State) (i : Slot) : (s.releaseSlot i).stagedLength = s.stagedLength := by
  unfold State.releaseSlot; split <;> simp
@[simp] theorem State.releaseSlot_flags (s : State) (i : Slot) : (s.releaseSlot i).flags = s.flags := by
  unfold State.releaseSlot; split <;> simp
@[simp] theorem State.releaseSlot_flagEvent (s : State) (i : Slot) : (s.releaseSlot i).flagEvent = s.flagEvent := by
  unfold State.releaseSlot; split <;> simp
@[simp] theorem State.releaseSlot_flagsOwed (s : State) (i : Slot) : (s.releaseSlot i).flagsOwed = s.flagsOwed := by
  unfold State.releaseSlot; split <;> simp
@[simp] theorem State.releaseSlot_counters (s : State) (i : Slot) : (s.releaseSlot i).counters = s.counters := by
  unfold State.releaseSlot; split <;> simp
@[simp] theorem State.releaseSlot_policies (s : State) (i : Slot) : (s.releaseSlot i).policies = s.policies := by
  unfold State.releaseSlot; split <;> simp
@[simp] theorem State.releaseSlot_admissionCounter (s : State) (i : Slot) : (s.releaseSlot i).admissionCounter = s.admissionCounter := by
  unfold State.releaseSlot; split <;> simp
@[simp] theorem State.releaseSlot_pendingOrder (s : State) (i : Slot) : (s.releaseSlot i).pendingOrder = s.pendingOrder := by
  unfold State.releaseSlot; split <;> simp
@[simp] theorem State.releaseSlot_deferralList (s : State) (i : Slot) : (s.releaseSlot i).deferralList = s.deferralList := by
  unfold State.releaseSlot; split <;> simp
@[simp] theorem State.releaseSlot_nodes (s : State) (i : Slot) : (s.releaseSlot i).nodes = s.nodes := by
  unfold State.releaseSlot; split <;> simp
@[simp] theorem State.releaseSlot_scheduleRun (s : State) (i : Slot) : (s.releaseSlot i).scheduleRun = s.scheduleRun := by
  unfold State.releaseSlot; split <;> simp
@[simp] theorem State.releaseSlot_inFlight (s : State) (i : Slot) : (s.releaseSlot i).inFlight = s.inFlight := by
  unfold State.releaseSlot; split <;> simp
@[simp] theorem State.releaseSlot_receipts (s : State) (i : Slot) : (s.releaseSlot i).receipts = s.receipts := by
  unfold State.releaseSlot; split <;> simp
@[simp] theorem State.releaseSlot_store (s : State) (i : Slot) : (s.releaseSlot i).store = s.store := by
  unfold State.releaseSlot; split <;> simp
@[simp] theorem State.releaseSlot_owedOrder (s : State) (i : Slot) : (s.releaseSlot i).owedOrder = s.owedOrder := by
  unfold State.releaseSlot; split <;> simp
@[simp] theorem State.releaseSlot_now (s : State) (i : Slot) : (s.releaseSlot i).now = s.now := by
  unfold State.releaseSlot; split <;> simp
@[simp] theorem State.releaseSlot_phase (s : State) (i : Slot) : (s.releaseSlot i).phase = s.phase := by
  unfold State.releaseSlot; split <;> simp
@[simp] theorem State.releaseSlot_cycle (s : State) (i : Slot) : (s.releaseSlot i).cycle = s.cycle := by
  unfold State.releaseSlot; split <;> simp
@[simp] theorem State.releaseSlot_startKind (s : State) (i : Slot) : (s.releaseSlot i).startKind = s.startKind := by
  unfold State.releaseSlot; split <;> simp
@[simp] theorem State.releaseSlot_missRun (s : State) (i : Slot) : (s.releaseSlot i).missRun = s.missRun := by
  unfold State.releaseSlot; split <;> simp
@[simp] theorem State.releaseSlot_lossRaised (s : State) (i : Slot) : (s.releaseSlot i).lossRaised = s.lossRaised := by
  unfold State.releaseSlot; split <;> simp
@[simp] theorem State.releaseSlot_capture (s : State) (i : Slot) : (s.releaseSlot i).capture = s.capture := by
  unfold State.releaseSlot; split <;> simp
@[simp] theorem State.releaseSlot_sampled (s : State) (i : Slot) : (s.releaseSlot i).sampled = s.sampled := by
  unfold State.releaseSlot; split <;> simp
@[simp] theorem State.releaseSlot_qualifiedLevel (s : State) (i : Slot) : (s.releaseSlot i).qualifiedLevel = s.qualifiedLevel := by
  unfold State.releaseSlot; split <;> simp
@[simp] theorem State.releaseSlot_syncRun (s : State) (i : Slot) : (s.releaseSlot i).syncRun = s.syncRun := by
  unfold State.releaseSlot; split <;> simp
@[simp] theorem State.releaseSlot_levelChange (s : State) (i : Slot) : (s.releaseSlot i).levelChange = s.levelChange := by
  unfold State.releaseSlot; split <;> simp
@[simp] theorem State.releaseSlot_delivery (s : State) (i : Slot) : (s.releaseSlot i).delivery = s.delivery := by
  unfold State.releaseSlot; split <;> simp
@[simp] theorem State.releaseSlot_advanceHeld (s : State) (i : Slot) : (s.releaseSlot i).advanceHeld = s.advanceHeld := by
  unfold State.releaseSlot; split <;> simp
@[simp] theorem State.releaseSlot_pending (s : State) (i : Slot) : (s.releaseSlot i).pending = s.pending := by
  unfold State.releaseSlot; split <;> simp

/-! ### sampleSync -/

@[simp] theorem State.sampleSync_headPort (s : State) (l : Bool) : (s.sampleSync l).headPort = s.headPort := by
  unfold State.sampleSync; repeat' split
  all_goals rfl
@[simp] theorem State.sampleSync_fieldPort (s : State) (l : Bool) : (s.sampleSync l).fieldPort = s.fieldPort := by
  unfold State.sampleSync; repeat' split
  all_goals rfl
@[simp] theorem State.sampleSync_intake (s : State) (l : Bool) : (s.sampleSync l).intake = s.intake := by
  unfold State.sampleSync; repeat' split
  all_goals rfl
@[simp] theorem State.sampleSync_params (s : State) (l : Bool) : (s.sampleSync l).params = s.params := by
  unfold State.sampleSync; repeat' split
  all_goals rfl
@[simp] theorem State.sampleSync_stagedLength (s : State) (l : Bool) : (s.sampleSync l).stagedLength = s.stagedLength := by
  unfold State.sampleSync; repeat' split
  all_goals rfl
@[simp] theorem State.sampleSync_flags (s : State) (l : Bool) : (s.sampleSync l).flags = s.flags := by
  unfold State.sampleSync; repeat' split
  all_goals rfl
@[simp] theorem State.sampleSync_flagEvent (s : State) (l : Bool) : (s.sampleSync l).flagEvent = s.flagEvent := by
  unfold State.sampleSync; repeat' split
  all_goals rfl
@[simp] theorem State.sampleSync_flagsOwed (s : State) (l : Bool) : (s.sampleSync l).flagsOwed = s.flagsOwed := by
  unfold State.sampleSync; repeat' split
  all_goals rfl
@[simp] theorem State.sampleSync_counters (s : State) (l : Bool) : (s.sampleSync l).counters = s.counters := by
  unfold State.sampleSync; repeat' split
  all_goals rfl
@[simp] theorem State.sampleSync_policies (s : State) (l : Bool) : (s.sampleSync l).policies = s.policies := by
  unfold State.sampleSync; repeat' split
  all_goals rfl
@[simp] theorem State.sampleSync_slots (s : State) (l : Bool) : (s.sampleSync l).slots = s.slots := by
  unfold State.sampleSync; repeat' split
  all_goals rfl
@[simp] theorem State.sampleSync_admissionCounter (s : State) (l : Bool) : (s.sampleSync l).admissionCounter = s.admissionCounter := by
  unfold State.sampleSync; repeat' split
  all_goals rfl
@[simp] theorem State.sampleSync_pendingOrder (s : State) (l : Bool) : (s.sampleSync l).pendingOrder = s.pendingOrder := by
  unfold State.sampleSync; repeat' split
  all_goals rfl
@[simp] theorem State.sampleSync_deferralList (s : State) (l : Bool) : (s.sampleSync l).deferralList = s.deferralList := by
  unfold State.sampleSync; repeat' split
  all_goals rfl
@[simp] theorem State.sampleSync_nodes (s : State) (l : Bool) : (s.sampleSync l).nodes = s.nodes := by
  unfold State.sampleSync; repeat' split
  all_goals rfl
@[simp] theorem State.sampleSync_scheduleRun (s : State) (l : Bool) : (s.sampleSync l).scheduleRun = s.scheduleRun := by
  unfold State.sampleSync; repeat' split
  all_goals rfl
@[simp] theorem State.sampleSync_inFlight (s : State) (l : Bool) : (s.sampleSync l).inFlight = s.inFlight := by
  unfold State.sampleSync; repeat' split
  all_goals rfl
@[simp] theorem State.sampleSync_receipts (s : State) (l : Bool) : (s.sampleSync l).receipts = s.receipts := by
  unfold State.sampleSync; repeat' split
  all_goals rfl
@[simp] theorem State.sampleSync_store (s : State) (l : Bool) : (s.sampleSync l).store = s.store := by
  unfold State.sampleSync; repeat' split
  all_goals rfl
@[simp] theorem State.sampleSync_owedOrder (s : State) (l : Bool) : (s.sampleSync l).owedOrder = s.owedOrder := by
  unfold State.sampleSync; repeat' split
  all_goals rfl
@[simp] theorem State.sampleSync_now (s : State) (l : Bool) : (s.sampleSync l).now = s.now := by
  unfold State.sampleSync; repeat' split
  all_goals rfl
@[simp] theorem State.sampleSync_phase (s : State) (l : Bool) : (s.sampleSync l).phase = s.phase := by
  unfold State.sampleSync; repeat' split
  all_goals rfl
@[simp] theorem State.sampleSync_cycle (s : State) (l : Bool) : (s.sampleSync l).cycle = s.cycle := by
  unfold State.sampleSync; repeat' split
  all_goals rfl
@[simp] theorem State.sampleSync_startKind (s : State) (l : Bool) : (s.sampleSync l).startKind = s.startKind := by
  unfold State.sampleSync; repeat' split
  all_goals rfl
@[simp] theorem State.sampleSync_missRun (s : State) (l : Bool) : (s.sampleSync l).missRun = s.missRun := by
  unfold State.sampleSync; repeat' split
  all_goals rfl
@[simp] theorem State.sampleSync_lossRaised (s : State) (l : Bool) : (s.sampleSync l).lossRaised = s.lossRaised := by
  unfold State.sampleSync; repeat' split
  all_goals rfl
@[simp] theorem State.sampleSync_capture (s : State) (l : Bool) : (s.sampleSync l).capture = s.capture := by
  unfold State.sampleSync; repeat' split
  all_goals rfl
@[simp] theorem State.sampleSync_schedule (s : State) (l : Bool) : (s.sampleSync l).schedule = s.schedule := by
  unfold State.sampleSync; repeat' split
  all_goals rfl
@[simp] theorem State.sampleSync_delivery (s : State) (l : Bool) : (s.sampleSync l).delivery = s.delivery := by
  unfold State.sampleSync; repeat' split
  all_goals rfl
@[simp] theorem State.sampleSync_advanceHeld (s : State) (l : Bool) : (s.sampleSync l).advanceHeld = s.advanceHeld := by
  unfold State.sampleSync; repeat' split
  all_goals rfl
@[simp] theorem State.sampleSync_pending (s : State) (l : Bool) : (s.sampleSync l).pending = s.pending := by
  unfold State.sampleSync; repeat' split
  all_goals rfl

/-! ### advance -/

@[simp] theorem State.advance_headPort (s : State) (e : Bool) : (s.advance e).headPort = s.headPort := by
  unfold State.advance; split <;> rfl
@[simp] theorem State.advance_fieldPort (s : State) (e : Bool) : (s.advance e).fieldPort = s.fieldPort := by
  unfold State.advance; split <;> rfl
@[simp] theorem State.advance_intake (s : State) (e : Bool) : (s.advance e).intake = s.intake := by
  unfold State.advance; split <;> rfl
@[simp] theorem State.advance_params (s : State) (e : Bool) : (s.advance e).params = s.params := by
  unfold State.advance; split <;> rfl
@[simp] theorem State.advance_stagedLength (s : State) (e : Bool) : (s.advance e).stagedLength = s.stagedLength := by
  unfold State.advance; split <;> rfl
@[simp] theorem State.advance_flags (s : State) (e : Bool) : (s.advance e).flags = s.flags := by
  unfold State.advance; split <;> rfl
@[simp] theorem State.advance_flagEvent (s : State) (e : Bool) : (s.advance e).flagEvent = s.flagEvent := by
  unfold State.advance; split <;> rfl
@[simp] theorem State.advance_flagsOwed (s : State) (e : Bool) : (s.advance e).flagsOwed = s.flagsOwed := by
  unfold State.advance; split <;> rfl
@[simp] theorem State.advance_counters (s : State) (e : Bool) : (s.advance e).counters = s.counters := by
  unfold State.advance; split <;> rfl
@[simp] theorem State.advance_policies (s : State) (e : Bool) : (s.advance e).policies = s.policies := by
  unfold State.advance; split <;> rfl
@[simp] theorem State.advance_slots (s : State) (e : Bool) : (s.advance e).slots = s.slots := by
  unfold State.advance; split <;> rfl
@[simp] theorem State.advance_admissionCounter (s : State) (e : Bool) : (s.advance e).admissionCounter = s.admissionCounter := by
  unfold State.advance; split <;> rfl
@[simp] theorem State.advance_pendingOrder (s : State) (e : Bool) : (s.advance e).pendingOrder = s.pendingOrder := by
  unfold State.advance; split <;> rfl
@[simp] theorem State.advance_deferralList (s : State) (e : Bool) : (s.advance e).deferralList = s.deferralList := by
  unfold State.advance; split <;> rfl
@[simp] theorem State.advance_nodes (s : State) (e : Bool) : (s.advance e).nodes = s.nodes := by
  unfold State.advance; split <;> rfl
@[simp] theorem State.advance_scheduleRun (s : State) (e : Bool) : (s.advance e).scheduleRun = s.scheduleRun := by
  unfold State.advance; split <;> rfl
@[simp] theorem State.advance_inFlight (s : State) (e : Bool) : (s.advance e).inFlight = s.inFlight := by
  unfold State.advance; split <;> rfl
@[simp] theorem State.advance_receipts (s : State) (e : Bool) : (s.advance e).receipts = s.receipts := by
  unfold State.advance; split <;> rfl
@[simp] theorem State.advance_store (s : State) (e : Bool) : (s.advance e).store = s.store := by
  unfold State.advance; split <;> rfl
@[simp] theorem State.advance_owedOrder (s : State) (e : Bool) : (s.advance e).owedOrder = s.owedOrder := by
  unfold State.advance; split <;> rfl
@[simp] theorem State.advance_now (s : State) (e : Bool) : (s.advance e).now = s.now := by
  unfold State.advance; split <;> rfl
@[simp] theorem State.advance_cycle (s : State) (e : Bool) : (s.advance e).cycle = s.cycle := by
  unfold State.advance; split <;> rfl
@[simp] theorem State.advance_startKind (s : State) (e : Bool) : (s.advance e).startKind = s.startKind := by
  unfold State.advance; split <;> rfl
@[simp] theorem State.advance_missRun (s : State) (e : Bool) : (s.advance e).missRun = s.missRun := by
  unfold State.advance; split <;> rfl
@[simp] theorem State.advance_lossRaised (s : State) (e : Bool) : (s.advance e).lossRaised = s.lossRaised := by
  unfold State.advance; split <;> rfl
@[simp] theorem State.advance_capture (s : State) (e : Bool) : (s.advance e).capture = s.capture := by
  unfold State.advance; split <;> rfl
@[simp] theorem State.advance_sampled (s : State) (e : Bool) : (s.advance e).sampled = s.sampled := by
  unfold State.advance; split <;> rfl
@[simp] theorem State.advance_qualifiedLevel (s : State) (e : Bool) : (s.advance e).qualifiedLevel = s.qualifiedLevel := by
  unfold State.advance; split <;> rfl
@[simp] theorem State.advance_syncRun (s : State) (e : Bool) : (s.advance e).syncRun = s.syncRun := by
  unfold State.advance; split <;> rfl
@[simp] theorem State.advance_levelChange (s : State) (e : Bool) : (s.advance e).levelChange = s.levelChange := by
  unfold State.advance; split <;> rfl
@[simp] theorem State.advance_schedule (s : State) (e : Bool) : (s.advance e).schedule = s.schedule := by
  unfold State.advance; split <;> rfl
@[simp] theorem State.advance_delivery (s : State) (e : Bool) : (s.advance e).delivery = s.delivery := by
  unfold State.advance; split <;> rfl
@[simp] theorem State.advance_pending (s : State) (e : Bool) : (s.advance e).pending = s.pending := by
  unfold State.advance; split <;> rfl

end Sys2Proof.Machine
end

