-- ==== Sys2Proof/Laws/Ops.lean ====
section
/-! SUPPORT. What the shared operations do, said once for each: reading after writing for slots, nodes, store entries,
schedule entries, flags and counters, and the cases of the operations that judge (R101, R108, R110, R122). -/

namespace Sys2Proof.Machine

/-! ## Reading after writing -/

theorem slots_get_set (v : Vector (Option Exchange) 24) (i j : Slot) (e : Option Exchange) :
    (v.set i e)[j] = if i = j then e else v[j] := by
  rcases i with ⟨i, hi⟩; rcases j with ⟨j, hj⟩
  simp [Vector.getElem_set, Fin.ext_iff]

theorem entries_get_set (v : Vector ScheduleEntry 32) (i j : EntryIndex) (e : ScheduleEntry) :
    (v.set i e)[j] = if i = j then e else v[j] := by
  rcases i with ⟨i, hi⟩; rcases j with ⟨j, hj⟩
  simp [Vector.getElem_set, Fin.ext_iff]

theorem store_get_set (v : Vector (Option StoredReport) 16) (i j : StoreIndex) (e : Option StoredReport) :
    (v.set i e)[j] = if i = j then e else v[j] := by
  rcases i with ⟨i, hi⟩; rcases j with ⟨j, hj⟩
  simp [Vector.getElem_set, Fin.ext_iff]

theorem flags_get_set (v : Vector FlagRecord 6) (i j : Fin 6) (e : FlagRecord) :
    (v.set i e)[j] = if i = j then e else v[j] := by
  rcases i with ⟨i, hi⟩; rcases j with ⟨j, hj⟩
  simp [Vector.getElem_set, Fin.ext_iff]

theorem counters_get_set (v : Vector (BitVec 32) 30) (i j : Fin 30) (x : BitVec 32) :
    (v.set i x)[j] = if i = j then x else v[j] := by
  rcases i with ⟨i, hi⟩; rcases j with ⟨j, hj⟩
  simp [Vector.getElem_set, Fin.ext_iff]

/-- Reading a slot depends on the slots alone. -/
theorem State.slot_of_slots {s t : State} (h : t.slots = s.slots) (i : Slot) : t.slot i = s.slot i := by
  simp [State.slot, h]

theorem State.slot_setSlot (s : State) (i j : Slot) (e : Option Exchange) :
    (s.setSlot i e).slot j = if i = j then e else s.slot j :=
  slots_get_set s.slots i j e

theorem State.slot_openExchange (s : State) (i j : Slot) (o : Origin) (n : Nat) (f : Byte) (d : List Byte) (p : Policy) :
    (s.openExchange i o n f d p).slot j = if i = j then some (admittedRecord s o n f d p) else s.slot j :=
  slots_get_set s.slots i j _

theorem State.slot_conclude (s : State) (i j : Slot) (e : Exchange) (o : OutcomeCode) :
    (s.conclude i e o).slot j = if i = j then some (concludedRecord e o) else s.slot j :=
  slots_get_set s.slots i j _

theorem State.slot_becomeDeferred (s : State) (i j : Slot) (e : Exchange) (due : Mono) :
    (s.becomeDeferred i e due).slot j =
      if i = j then some { e with state := .deferred, answerDue := none, reissueDue := some due } else s.slot j :=
  slots_get_set s.slots i j _

theorem State.slot_becomeReady (s : State) (i j : Slot) (e : Exchange) :
    (s.becomeReady i e).slot j =
      if i = j then some { e with state := .ready, answerDue := none, reissueDue := none } else s.slot j :=
  slots_get_set s.slots i j _

theorem State.slot_selectExchange (s : State) (i j : Slot) (e : Exchange) :
    (s.selectExchange i e).slot j =
      if i = j then some { e with state := .issued, answerDue := none, issueCount := e.issueCount + 1 }
      else s.slot j :=
  slots_get_set s.slots i j _

theorem State.entry_updateEntry (s : State) (k j : EntryIndex) (f : ScheduleEntry → ScheduleEntry) :
    (s.updateEntry k f).entry j = if k = j then f (s.entry k) else s.entry j :=
  entries_get_set s.schedule k j _

/-- Reading a schedule entry depends on the schedule alone. -/
theorem State.entry_of_schedule {s t : State} (h : t.schedule = s.schedule) (k : EntryIndex) :
    t.entry k = s.entry k := by
  simp [State.entry, h]

/-- Reading a store entry depends on the store alone. -/
theorem State.stored_of_store {s t : State} (h : t.store = s.store) (k : StoreIndex) : t.stored k = s.stored k := by
  simp [State.stored, h]

theorem State.flag_raiseFlag (s : State) (f g : Flag) :
    (s.raiseFlag f).flag g =
      if f = g then { raised := true, stamp := nextFlagEvent s.flagEvent, count := nextRaiseCount (s.flag f).count }
      else s.flag g := by
  have h : flagNumber f = flagNumber g ↔ f = g := by cases f <;> cases g <;> decide
  simp only [State.flag, State.raiseFlag, flags_get_set, h]

theorem counterPosition_inj {c d : Counter} (h : counterPosition c = counterPosition d) : c = d := by
  cases c <;> cases d <;> (try rename_i o; cases o) <;> (try rename_i p; cases p) <;>
    first | rfl | (exact absurd h (by decide))

theorem State.counter_tally (s : State) (c d : Counter) :
    (s.tally c).counter d = if c = d then s.counter d + 1 else s.counter d := by
  simp only [State.counter, State.tally, counters_get_set]
  by_cases h : c = d
  · subst h; simp
  · simp [h, mt counterPosition_inj h]

/-! ## Nodes -/

theorem nodeIndex_eq_some {n : Nat} {i : Fin 62} : nodeIndex n = some i ↔ n = i.val + 1 := by
  unfold nodeIndex
  split
  · rename_i h
    constructor
    · intro e; cases e; simp; omega
    · intro e; simp [Fin.ext_iff]; omega
  · constructor
    · intro e; cases e
    · intro e; omega

theorem nodeIndex_eq_none {n : Nat} : nodeIndex n = none ↔ ¬ (1 ≤ n ∧ n ≤ 62) := by
  unfold nodeIndex
  split <;> simp_all

/-- Reading a node entry depends on the Node Table alone. -/
theorem State.node_of_nodes {s t : State} (h : t.nodes = s.nodes) (n : Nat) : t.node n = s.node n := by
  simp [State.node, h]

/-- A number that is no field node reads as an entry after RESET#. -/
theorem State.node_outside (s : State) {n : Nat} (h : ¬ (1 ≤ n ∧ n ≤ 62)) : s.node n = NodeEntry.initial := by
  simp [State.node, nodeIndex_eq_none.2 h]

theorem State.node_updateNode (s : State) (n m : Nat) (f : NodeEntry → NodeEntry) :
    (s.updateNode n f).node m = if n = m ∧ 1 ≤ n ∧ n ≤ 62 then f (s.node n) else s.node m := by
  by_cases hn : 1 ≤ n ∧ n ≤ 62
  · obtain ⟨i, hi⟩ : ∃ i, nodeIndex n = some i := by
      cases h : nodeIndex n with
      | none => exact absurd hn (nodeIndex_eq_none.1 h)
      | some i => exact ⟨i, rfl⟩
    cases hm : nodeIndex m with
    | none =>
      have : n ≠ m := by rintro rfl; simp [hi] at hm
      simp [State.node, hm, this]
    | some j =>
      simp only [State.node, State.updateNode, changeNode, hi, hm]
      rcases i with ⟨i, hi'⟩; rcases j with ⟨j, hj'⟩
      have e1 := nodeIndex_eq_some.1 hi
      have e2 := nodeIndex_eq_some.1 hm
      simp only at e1 e2
      by_cases e : i = j
      · subst e; subst e2; simp_all
      · have : n ≠ m := by omega
        simp [e, this]
  · simp [State.updateNode, changeNode, nodeIndex_eq_none.2 hn, State.node, hn]

theorem State.node_setNodeState (s : State) (n m : Nat) (st : NodeState) :
    (s.setNodeState n st).node m = if n = m ∧ 1 ≤ n ∧ n ≤ 62 then { s.node n with state := st } else s.node m :=
  s.node_updateNode n m _

theorem State.node_noteLatency (s : State) (n m l : Nat) :
    (s.noteLatency n l).node m =
      if n = m ∧ 1 ≤ n ∧ n ≤ 62 then
        { s.node n with lastLatency := l, maxLatency := max (s.node n).maxLatency l }
      else s.node m :=
  s.node_updateNode n m _

/-! ## Free places -/

theorem State.lowestFree_spec (s : State) (i : Slot) (h : s.lowestFree = some i) : s.slot i = none := by
  have := List.find?_some h
  simpa using this

theorem State.lowestFree_none (s : State) (h : s.lowestFree = none) (i : Slot) : s.slot i ≠ none := by
  have := List.find?_eq_none.1 h i (by simp [allSlots])
  simpa using this

theorem State.lowestFreeEntry_spec (s : State) (k : StoreIndex) (h : s.lowestFreeEntry = some k) : s.stored k = none := by
  have := List.find?_some h
  simpa using this

/-! ## Ordered collections -/

theorem mem_insertBefore (before : Slot → Bool) (i j : Slot) (l : List Slot) :
    j ∈ insertBefore before i l ↔ j = i ∨ j ∈ l := by
  induction l with
  | nil => simp [insertBefore]
  | cons x l ih =>
    simp only [insertBefore]
    split
    · simp
    · simp only [List.mem_cons, ih]; tauto

theorem insertBefore_perm (before : Slot → Bool) (i : Slot) (l : List Slot) :
    (insertBefore before i l).Perm (i :: l) := by
  induction l with
  | nil => simp [insertBefore]
  | cons x l ih =>
    simp only [insertBefore]
    split
    · exact List.Perm.refl _
    · exact (List.Perm.cons x ih).trans (List.Perm.swap i x l)

theorem nodup_insertBefore (before : Slot → Bool) (i : Slot) (l : List Slot) :
    (insertBefore before i l).Nodup ↔ i ∉ l ∧ l.Nodup := by
  rw [(insertBefore_perm before i l).nodup_iff, List.nodup_cons]

/-! ## The operations that judge -/

/-- The two results of a silence (R108): NO ANSWER beyond the Silent Limit, DEFERRED within it. -/
theorem State.takeSilence_cases (s : State) (i : Slot) (e : Exchange) :
    (e.snapshot.silentLimit < e.silentCount + 1 ∧
      s.takeSilence i e =
        (s.conclude i { e with silentCount := e.silentCount + 1 } .noAnswer).setNodeState e.node .idle) ∨
    (e.silentCount + 1 ≤ e.snapshot.silentLimit ∧
      s.takeSilence i e =
        s.becomeDeferred i { e with silentCount := e.silentCount + 1 } (after s.now e.snapshot.baseDelay)) := by
  unfold State.takeSilence
  split
  · exact .inl ⟨‹_›, rfl⟩
  · exact .inr ⟨by omega, rfl⟩

/-- What the end of an exchange does by its state (R110, R118). -/
theorem State.endExchange_cases (s : State) (i : Slot) (e : Exchange) (o : OutcomeCode) :
    ((e.state = .concluded ∨ (e.state = .issued ∧ e.node = 63)) ∧ s.endExchange i e o = s) ∨
    (e.state = .waiting ∧ s.endExchange i e o = s.conclude i e o) ∨
    ((e.state = .issued ∧ e.node ≠ 63) ∧
      s.endExchange i e o = (s.conclude i e o).setNodeState e.node (.quiet e.answerDue)) ∨
    ((e.state = .deferred ∨ e.state = .ready) ∧
      s.endExchange i e o = (s.conclude i e o).setNodeState e.node .idle) := by
  unfold State.endExchange Config.broadcastNode
  cases h : e.state <;> simp
  by_cases h63 : e.node = 63 <;> simp [h63]

/-- What the field line's change to DOWN does to one slot (R122). -/
theorem State.loseIssue_cases (s : State) (i : Slot) :
    ((∀ e, s.slot i = some e → e.state ≠ .issued) ∧ s.loseIssue i = s) ∨
    ∃ e, s.slot i = some e ∧ e.state = .issued ∧
      ((e.node = 63 ∧ s.loseIssue i = s.conclude i e .lineLost) ∨
       (e.node ≠ 63 ∧ e.snapshot.silentLimit < e.silentCount + 1 ∧
         s.loseIssue i =
          (s.conclude i { e with silentCount := e.silentCount + 1 } .lineLost).setNodeState e.node .idle) ∨
       (e.node ≠ 63 ∧ e.silentCount + 1 ≤ e.snapshot.silentLimit ∧
         s.loseIssue i =
          (s.becomeReady i { e with silentCount := e.silentCount + 1 }).setNodeState e.node (.held i))) := by
  unfold State.loseIssue Config.broadcastNode
  cases h : s.slot i with
  | none => left; simp
  | some e =>
    by_cases h1 : e.state = .issued
    · right
      refine ⟨e, rfl, h1, ?_⟩
      by_cases h2 : e.node = 63
      · left; simp [h1, h2]
      · by_cases h3 : e.snapshot.silentLimit < e.silentCount + 1
        · right; left; simp [h1, h2, h3]
        · right; right; refine ⟨h2, by omega, ?_⟩; simp [h1, h2, h3]
    · left; simp [h1]

/-- A receipt joins the queue or is dropped and counted (R136). -/
theorem State.oweReceipt_cases (s : State) (r : Receipt) :
    (s.receipts.length < 8 ∧ s.oweReceipt r = { s with receipts := s.receipts ++ [r] }) ∨
    (8 ≤ s.receipts.length ∧ s.oweReceipt r = s.tally .receiptsDropped) := by
  unfold State.oweReceipt Config.receiptCapacity
  split
  · exact .inl ⟨‹_›, rfl⟩
  · exact .inr ⟨by omega, rfl⟩

/-- What a firing does (R168). -/
theorem State.fire_cases (s : State) (k : EntryIndex) (live : ScheduleFields) :
    (∃ f : ScheduleEntry → ScheduleEntry, (∀ e, (f e).openSlot = e.openSlot ∧ (f e).live = e.live ∧
        (f e).staged = e.staged ∧ (f e).state = e.state) ∧ s.fire k live = (s.updateEntry k f).tally .scheduleSkips) ∨
    ∃ p i, (s.entry k).openSlot = none ∧ lookupPolicy s.policies live.node live.function = some p ∧ s.lowestFree = some i ∧
      s.fire k live =
        (s.updateEntry k fun e => markFired s.segmentTime (admittedEntry live i e)).openExchange i (.schedule k)
          live.node live.function live.template p := by
  unfold State.fire
  split
  · refine .inl ⟨_, ?_, rfl⟩; intro e; exact ⟨rfl, rfl, rfl, rfl⟩
  · refine .inl ⟨_, ?_, rfl⟩; intro e; exact ⟨rfl, rfl, rfl, rfl⟩
  · refine .inl ⟨_, ?_, rfl⟩; intro e; exact ⟨rfl, rfl, rfl, rfl⟩
  · rename_i h1 h2 h3
    exact .inr ⟨_, _, h1, h2, h3, rfl⟩

/-- A control place is free while fewer than 8 control items stand in the list (R172). -/
theorem State.controlFree_iff (s : State) : s.controlFree = true ↔ s.controlUsed < 8 := by
  unfold State.controlFree
  exact decide_eq_true_iff

/-- The end of a step that comes about only under a condition. -/
theorem State.whenever_next {s t u : State} {b : Bool} (h : s.whenever b u = .next t) :
    (b = true ∧ t = u) ∨ (b = false ∧ t = s) := by
  unfold State.whenever at h
  split at h
  · left; exact ⟨‹_›, by cases h; rfl⟩
  · rename_i hb; right; exact ⟨by simpa using hb, by cases h; rfl⟩

end Sys2Proof.Machine
end

