-- ==== Sys2Proof/Laws/Commands.lean ====
section
/-! SUPPORT. What each command can do, said once: if it answers a next state, then it changed nothing or its conditions held
and the state is the one its rule gives. No command stops. -/

namespace Sys2Proof.Machine

variable {s t : State}

/-- Every command answers a next state: the type of faults has no constructor, and no meaning refuses. -/
theorem State.whenever_is_next (s u : State) (b : Bool) : ∃ t, s.whenever b u = .next t := by
  unfold State.whenever; split <;> exact ⟨_, rfl⟩

/-- A command that comes about under a condition. -/
theorem whenever_cases {b : Bool} {u : State} (h : s.whenever b u = .next t) : t = s ∨ b = true ∧ t = u := by
  rcases State.whenever_next h with ⟨hc, rfl⟩ | ⟨_, rfl⟩
  · exact .inr ⟨hc, rfl⟩
  · exact .inl rfl

/-- An event in its turn comes about under its condition, while no control place is being handed (R174). -/
theorem inTurn_cases {b : Bool} {u : State} (h : s.inTurn b u = .next t) :
    t = s ∨ (b = true ∧ s.handing = false) ∧ t = u := by
  rcases whenever_cases h with h | ⟨hc, h⟩
  · exact .inl h
  · exact .inr ⟨by simpa using hc, h⟩

/-- An event in its turn, no control place being handed. -/
@[simp] theorem inTurn_of_not_handing {b : Bool} {u : State} (h : s.handing = false) : s.inTurn b u = s.whenever b u := by
  simp [State.inTurn, h]

/-- An event that is due is taken, no control place being handed. -/
theorem inTurn_taken {u : State} (h : s.handing = false) : s.inTurn true u = .next u := by
  simp [h, State.whenever]

/-- While a control place is being handed, no other event is taken (R174). -/
@[simp] theorem inTurn_of_handing {b : Bool} {u : State} (h : s.handing = true) : s.inTurn b u = .next s := by
  simp [State.inTurn, State.whenever, h]

/-! ## Directives -/

/-- Taking a directive (R21, R22, R24). -/
theorem takeDirective_next {test : Byte → Bool} {body : List Byte → State → Reply}
    (h : s.takeDirective test body = .next t) :
    t = s ∨ ∃ d rest, s.intake = d :: rest ∧ d.kind = .directive ∧ test d.function = true ∧ s.controlFree = true ∧
      t = (body d.payload s.taken).state.place
        (acknowledgeFrame d (body d.payload s.taken).status (body d.payload s.taken).result) := by
  unfold State.takeDirective State.directiveReady at h
  cases hi : s.intake with
  | nil => simp [hi] at h; exact .inl h.symm
  | cons d rest =>
    simp only [hi] at h
    by_cases hc : d.kind = .directive ∧ test d.function = true ∧ s.controlFree = true
    · simp only [hc, and_self, if_true] at h
      exact .inr ⟨d, rest, rfl, hc.1, hc.2.1, hc.2.2, by simpa using h.symm⟩
    · simp only [if_neg hc] at h
      exact .inl (by simpa using h.symm)

/-- A directive that is ready at the front of the intake is taken. -/
theorem takeDirective_taken {test : Byte → Bool} {body : List Byte → State → Reply} {d : Frame} {rest : List Frame}
    (hi : s.intake = d :: rest) (hk : d.kind = .directive) (ht : test d.function = true) (hc : s.controlFree = true) :
    s.takeDirective test body =
      .next ((body d.payload s.taken).state.place
        (acknowledgeFrame d (body d.payload s.taken).status (body d.payload s.taken).result)) := by
  simp [State.takeDirective, State.directiveReady, hi, hk, ht, hc]

theorem directive_next {code : Byte} {body : List Byte → State → Reply} (h : s.directive code body = .next t) :
    t = s ∨ ∃ d rest, s.intake = d :: rest ∧ d.kind = .directive ∧ d.function = code ∧ s.controlFree = true ∧
      t = (body d.payload s.taken).state.place
        (acknowledgeFrame d (body d.payload s.taken).status (body d.payload s.taken).result) := by
  rcases takeDirective_next h with h | ⟨d, rest, h1, h2, h3, h4, h5⟩
  · exact .inl h
  · exact .inr ⟨d, rest, h1, h2, by simpa using h3, h4, h5⟩

theorem directive_taken {code : Byte} {body : List Byte → State → Reply} {d : Frame} {rest : List Frame}
    (hi : s.intake = d :: rest) (hk : d.kind = .directive) (ht : d.function = code) (hc : s.controlFree = true) :
    s.directive code body =
      .next ((body d.payload s.taken).state.place
        (acknowledgeFrame d (body d.payload s.taken).status (body d.payload s.taken).result)) :=
  takeDirective_taken hi hk (by simpa using ht) hc

theorem noArguments_state {body : State → Reply} {arguments : List Byte} {s : State} :
    (noArguments body arguments s).state = s ∨ (noArguments body arguments s).state = (body s).state := by
  unfold noArguments; split
  · exact .inr rfl
  · exact .inl rfl

theorem oneByte_state {α : Type} {read : Nat → Option α} {body : α → State → Reply} {arguments : List Byte} {s : State} :
    (oneByte read body arguments s).state = s ∨
      ∃ a, read (byteAt arguments 0) = some a ∧ (oneByte read body arguments s).state = (body a s).state := by
  unfold oneByte; split
  · exact .inl rfl
  · split
    · exact .inr ⟨_, ‹_›, rfl⟩
    · exact .inl rfl

/-- What is left of a directive that only answers: taken, counted and acknowledged. -/
theorem noArguments_only {body : State → Reply} (hb : ∀ s, (body s).state = s) (arguments : List Byte) (s : State) :
    (noArguments body arguments s).state = s := by
  rcases noArguments_state (body := body) (arguments := arguments) (s := s) with h | h
  · exact h
  · rw [h, hb]

theorem oneByte_only {α : Type} {read : Nat → Option α} {body : α → State → Reply} (hb : ∀ a s, (body a s).state = s)
    (arguments : List Byte) (s : State) : (oneByte read body arguments s).state = s := by
  rcases oneByte_state (read := read) (body := body) (arguments := arguments) (s := s) with h | ⟨a, _, h⟩
  · exact h
  · rw [h, hb]

/-! ## The bodies of the directives -/

theorem setParametersBody_state (arguments : List Byte) (s : State) :
    (setParametersBody arguments s).state = s ∨
      ∃ p, parametersOfImage arguments = some p ∧ p.syncTolerance < s.params.cycleLength ∧
        (setParametersBody arguments s).state = s.applyParameters p := by
  unfold setParametersBody
  split
  · split
    · exact .inr ⟨_, ‹_›, ‹_›, rfl⟩
    · exact .inl rfl
  · exact .inl rfl

theorem clearFlagsBody_state (arguments : List Byte) (s : State) :
    ∃ v, (clearFlagsBody arguments s).state = { s with flags := v } := by
  unfold clearFlagsBody
  split
  · exact ⟨_, rfl⟩
  · exact ⟨s.flags, rfl⟩

theorem loadPolicyBody_state (arguments : List Byte) (s : State) :
    (loadPolicyBody arguments s).state = s ∨
      ∃ p, policyOfImage arguments = some p ∧
        ((findPolicy s.policies p.key).isSome = true ∨ s.policies.length < 128) ∧
        (loadPolicyBody arguments s).state = { s with policies := storePolicy p s.policies } := by
  unfold loadPolicyBody
  split
  · split
    · exact .inr ⟨_, ‹_›, .inl ‹_›, rfl⟩
    · split
      · exact .inr ⟨_, ‹_›, .inr ‹_›, rfl⟩
      · exact .inl rfl
  · exact .inl rfl

theorem dropPolicyBody_state (arguments : List Byte) (s : State) :
    (dropPolicyBody arguments s).state = s ∨
      ∃ k, (dropPolicyBody arguments s).state = { s with policies := dropPolicyKey s.policies k } := by
  unfold dropPolicyBody
  split
  · split
    · exact .inr ⟨_, rfl⟩
    · exact .inl rfl
  · exact .inl rfl

theorem readPolicyBody_state (arguments : List Byte) (s : State) : (readPolicyBody arguments s).state = s := by
  unfold readPolicyBody
  split
  · split <;> rfl
  · rfl

theorem cancelExchangeBody_state (tag : Byte) (s : State) :
    (cancelExchangeBody tag s).state = s ∨
      ∃ i e, s.slot i = some e ∧ e.origin = .head tag ∧ tooLateToCancel e = false ∧
        (cancelExchangeBody tag s).state = s.endExchange i e .cancelled := by
  unfold cancelExchangeBody
  split
  · rename_i i hi
    split
    · rename_i e he
      split
      · exact .inl rfl
      · have := List.find?_some hi
        simp only [he, beq_iff_eq] at this
        rename_i hl
        exact .inr ⟨i, e, he, this, by simpa using hl, rfl⟩
    · exact .inl rfl
  · exact .inl rfl

theorem postGrantBody_state (arguments : List Byte) (s : State) :
    (postGrantBody arguments s).state = s ∨
      ∃ n k, 1 ≤ n ∧ n ≤ 62 ∧ 1 ≤ k ∧ k ≤ 15 ∧ (postGrantBody arguments s).state = s.grant n k := by
  unfold postGrantBody
  split
  · exact .inl rfl
  · split
    · rename_i n hn
      unfold fieldNodeOf at hn
      split at hn
      · rename_i hr
        cases hn
        simp only
        split
        · exact .inl rfl
        · exact .inr ⟨_, _, hr.1, hr.2, by omega, by omega, rfl⟩
      · cases hn
    · exact .inl rfl

theorem loadScheduleEntryBody_state (arguments : List Byte) (s : State) :
    (loadScheduleEntryBody arguments s).state = s ∨
      ∃ k fields, loadEntryOfImage arguments = some (k, fields) ∧ fields.phase < s.lengthToCome ∧
        (loadScheduleEntryBody arguments s).state = s.updateEntry k fun e => (loadEntry fields e).1 := by
  unfold loadScheduleEntryBody
  split
  · split
    · exact .inr ⟨_, _, ‹_›, ‹_›, rfl⟩
    · exact .inl rfl
  · exact .inl rfl

theorem armEntryBody_state (k : EntryIndex) (s : State) :
    (armEntryBody k s).state = s ∨
      ∃ live, (s.entry k).state = .idle ∧ (s.entry k).live = some live ∧ s.phaseFits live.phase = true ∧
        (armEntryBody k s).state = s.updateEntry k (armed s.phase live) := by
  unfold armEntryBody
  split
  · exact .inl rfl
  · split
    · exact .inr ⟨_, ‹_›, ‹_›, ‹_›, rfl⟩
    · exact .inl rfl
  · exact .inl rfl
  · exact .inl rfl

theorem disarmEntryBody_state (k : EntryIndex) (s : State) :
    (disarmEntryBody k s).state = s ∨
      (s.entry k).state = .armed ∧ (disarmEntryBody k s).state = s.updateEntry k disarmed := by
  unfold disarmEntryBody
  split
  · exact .inr ⟨‹_›, rfl⟩
  · exact .inl rfl
  · exact .inl rfl

theorem execUnknownDirective_next (h : execUnknownDirective s = .next t) :
    t = s ∨ ∃ d rest, s.intake = d :: rest ∧ d.kind = .directive ∧ s.controlFree = true ∧
      t = (s.taken.tally .unknownDirectives).place (acknowledgeFrame d .unknownDirective []) := by
  unfold execUnknownDirective at h
  rcases takeDirective_next h with rfl | ⟨d, rest, h1, h2, _, h4, h5⟩
  · exact .inl rfl
  · exact .inr ⟨d, rest, h1, h2, h4, h5⟩

theorem execReset_next (h : execReset s = .next t) : t = { State.reset with pending := s.pending } := by
  unfold execReset at h
  exact (Host.Outcome.next.inj h).symm

/-! ## Arrivals and line changes -/

theorem arriveFrame_next {line : Line} {f : Frame} (h : s.arriveFrame line f = .next t) :
    t = s ∨ (s.canArrive line = true ∧ s.handing = false) ∧
      t = s.arrive line (frameBytes f) :=
  inTurn_cases h

theorem execRequestArrival_next {node tag function : Byte} {payload : List Byte}
    (h : execRequestArrival node tag function payload s = .next t) :
    t = s ∨ (s.canArrive .head = true ∧ s.handing = false) ∧
      t = s.arrive .head (frameBytes ⟨.request, node, tag, function, payload⟩) :=
  arriveFrame_next h

theorem execDirectiveArrival_next {number code : Byte} {arguments : List Byte}
    (h : execDirectiveArrival number code arguments s = .next t) :
    t = s ∨ (s.canArrive .head = true ∧ s.handing = false) ∧
      t = s.arrive .head (frameBytes ⟨.directive, 0, number, code, arguments⟩) :=
  arriveFrame_next h

theorem execAnswerArrival_next {node tag function : Byte} {payload : List Byte}
    (h : execAnswerArrival node tag function payload s = .next t) :
    t = s ∨ s.canReply = true ∧ t = s.arrive .field (frameBytes ⟨.answer, node, tag, function, payload⟩) :=
  whenever_cases h

theorem execDeferArrival_next {node tag function : Byte} {payload : List Byte}
    (h : execDeferArrival node tag function payload s = .next t) :
    t = s ∨ s.canReply = true ∧ t = s.arrive .field (frameBytes ⟨.defer, node, tag, function, payload⟩) :=
  whenever_cases h

theorem execReportArrival_next {node sequence function : Byte} {payload : List Byte}
    (h : execReportArrival node sequence function payload s = .next t) :
    t = s ∨ (s.canArrive .field = true ∧ s.handing = false) ∧
      t = s.arrive .field (frameBytes ⟨.report, node, sequence, function, payload⟩) :=
  arriveFrame_next h

theorem execMalformedFrame_next {line : Line} {bytes : List Byte} (h : execMalformedFrame line bytes s = .next t) :
    t = s ∨ ((s.canArrive line && !(judgeBytes line bytes).isGood) = true ∧ s.handing = false) ∧
      t = s.arrive line bytes :=
  inTurn_cases h

theorem execStartPatternSeen_next {line : Line} (h : execStartPatternSeen line s = .next t) :
    t = s ∨ (((s.port line).up && (s.port line).receive == .idle) = true ∧ s.handing = false) ∧
      t = s.setPort line { s.port line with receive := .receiving } :=
  inTurn_cases h

theorem execHeadLineUp_next (h : execHeadLineUp s = .next t) :
    t = s ∨ (s.headPort.upDue = true ∧ s.handing = false) ∧ t = { s with headPort := s.headPort.raise } :=
  inTurn_cases h

theorem execFieldLineUp_next (h : execFieldLineUp s = .next t) :
    t = s ∨ (s.fieldPort.upDue = true ∧ s.handing = false) ∧ t = { s with fieldPort := s.fieldPort.raise } :=
  inTurn_cases h

theorem execHeadLineDown_next (h : execHeadLineDown s = .next t) :
    t = s ∨ (s.headPort.downDue = true ∧ s.handing = false) ∧
      t = { s.tallyCutShort .head with headPort := s.headPort.lower } :=
  inTurn_cases h

theorem execFieldLineDown_next (h : execFieldLineDown s = .next t) :
    t = s ∨ (s.fieldPort.downDue = true ∧ s.handing = false) ∧ t = s.loseField s.replyWaits :=
  inTurn_cases h

/-! ## The arbiter -/

/-- What starts on the field line is the arbiter's choice, no control place is being handed, and no event of this tick that can
make an exchange eligible is still to be taken (R85, R174). -/
theorem fieldStart_iff {c : FieldChoice} :
    s.fieldStart = some c ↔ s.fieldChoice = some c ∧ s.handing = false ∧ s.yetToCome c.slot = false := by
  unfold State.fieldStart
  rw [Option.filter_eq_some_iff]
  simp only [Bool.and_eq_true, Bool.not_eq_true']

theorem fieldStart_choice {c : FieldChoice} (h : s.fieldStart = some c) : s.fieldChoice = some c :=
  (fieldStart_iff.mp h).1

theorem execIssueSelection_next (h : execIssueSelection s = .next t) :
    t = s ∨ ∃ i e, s.fieldStart = some (.exchange i) ∧ s.slot i = some e ∧ e.node ≠ 63 ∧ t = s.selectToNode i e := by
  unfold execIssueSelection at h
  split at h
  · split at h
    · rcases whenever_cases h with h | ⟨hc, h⟩
      · exact .inl h
      · exact .inr ⟨_, _, ‹_›, ‹_›, by simpa [Config.broadcastNode] using hc, h⟩
    · exact .inl (by cases h; rfl)
  · exact .inl (by cases h; rfl)

theorem execBroadcastSelection_next (h : execBroadcastSelection s = .next t) :
    t = s ∨ ∃ i e, s.fieldStart = some (.exchange i) ∧ s.slot i = some e ∧ e.node = 63 ∧ t = s.selectBroadcast i e := by
  unfold execBroadcastSelection at h
  split at h
  · split at h
    · rcases whenever_cases h with h | ⟨hc, h⟩
      · exact .inl h
      · exact .inr ⟨_, _, ‹_›, ‹_›, by simpa [Config.broadcastNode] using hc, h⟩
    · exact .inl (by cases h; rfl)
  · exact .inl (by cases h; rfl)

theorem execReceiptTransmitStart_next (h : execReceiptTransmitStart s = .next t) :
    t = s ∨ ∃ r, s.fieldStart = some (.receipt r) ∧
      t = (State.startField { s with receipts := s.receipts.tail } (receiptFrame r) (.receipt r)).tally .receiptsSent := by
  unfold execReceiptTransmitStart at h
  split at h
  · exact .inr ⟨_, ‹_›, by cases h; rfl⟩
  · exact .inl (by cases h; rfl)

theorem execIssueTransmitCompletion_next (h : execIssueTransmitCompletion s = .next t) :
    t = s ∨ ∃ i n number window, s.inFlight = some (.issue i n number window) ∧ n ≠ 63 ∧
      s.fieldPort.completing s.now = true ∧ s.handing = false ∧ t = (s.completeIssue n window).endField := by
  unfold execIssueTransmitCompletion at h
  split at h
  · rcases inTurn_cases h with h | ⟨⟨hc, hh⟩, h⟩
    · exact .inl h
    · simp [Config.broadcastNode] at hc
      exact .inr ⟨_, _, _, _, ‹_›, hc.2, hc.1, hh, h⟩
  · exact .inl (by cases h; rfl)

theorem execBroadcastTransmitCompletion_next (h : execBroadcastTransmitCompletion s = .next t) :
    t = s ∨ ∃ i number window e, s.inFlight = some (.issue i 63 number window) ∧ s.slot i = some e ∧ e.state = .issued ∧
      e.node = 63 ∧ s.fieldPort.completing s.now = true ∧ s.handing = false ∧
      t = (s.conclude i (completedRecord s e) .sent).endField := by
  unfold execBroadcastTransmitCompletion at h
  split at h
  · split at h
    · rcases inTurn_cases h with h' | ⟨⟨hc, hh⟩, h'⟩
      · exact .inl h'
      · simp [Config.broadcastNode] at hc
        obtain ⟨⟨⟨h1, h2⟩, h3⟩, h4⟩ := hc
        subst h2
        exact .inr ⟨_, _, _, _, ‹_›, ‹_›, h3, h4, h1, hh, h'⟩
    · exact .inl (by cases h; rfl)
  · exact .inl (by cases h; rfl)

theorem execReceiptTransmitCompletion_next (h : execReceiptTransmitCompletion s = .next t) :
    t = s ∨ ∃ r, s.inFlight = some (.receipt r) ∧ s.fieldPort.completing s.now = true ∧ s.handing = false ∧
      t = s.endField := by
  unfold execReceiptTransmitCompletion at h
  split at h
  · rcases inTurn_cases h with h | ⟨⟨hc, hh⟩, h⟩
    · exact .inl h
    · exact .inr ⟨_, ‹_›, hc, hh, h⟩
  · exact .inl (by cases h; rfl)

/-! ## Delivery -/

theorem execHeadTransmitStart_next (h : execHeadTransmitStart s = .next t) :
    t = s ∨ ∃ f, s.headStart = some f ∧ s.handing = false ∧ t = { s with headPort := s.headPort.start s.now f } := by
  unfold execHeadTransmitStart at h
  split at h
  · rcases inTurn_cases h with h | ⟨hc, h⟩
    · exact .inl h
    · exact .inr ⟨_, ‹_›, hc.2, h⟩
  · exact .inl (by cases h; rfl)

theorem execOutcomeTransmitCompletion_next (h : execOutcomeTransmitCompletion s = .next t) :
    t = s ∨ ∃ i rest, s.delivery = .conclusion i :: rest ∧ s.headPort.completing s.now = true ∧ s.handing = false ∧
      t = s.completeHead.releaseSlot i := by
  unfold execOutcomeTransmitCompletion at h
  split at h
  · rcases inTurn_cases h with h | ⟨⟨hc, hh⟩, h⟩
    · exact .inl h
    · exact .inr ⟨_, _, ‹_›, hc, hh, h⟩
  · exact .inl (by cases h; rfl)

theorem execReportDeliveryCompletion_next (h : execReportDeliveryCompletion s = .next t) :
    t = s ∨ ∃ k rest, s.delivery = .report k :: rest ∧ s.headPort.completing s.now = true ∧ s.handing = false ∧
      t = { s.completeHead with store := s.store.set k none } := by
  unfold execReportDeliveryCompletion at h
  split at h
  · rcases inTurn_cases h with h | ⟨⟨hc, hh⟩, h⟩
    · exact .inl h
    · exact .inr ⟨_, _, ‹_›, hc, hh, h⟩
  · exact .inl (by cases h; rfl)

theorem execControlTransmitCompletion_next (h : execControlTransmitCompletion s = .next t) :
    t = s ∨ ∃ f rest, s.delivery = .control f :: rest ∧ s.headPort.completing s.now = true ∧ s.handing = false ∧
      t = s.completeHead := by
  unfold execControlTransmitCompletion at h
  split at h
  · rcases inTurn_cases h with h | ⟨⟨hc, hh⟩, h⟩
    · exact .inl h
    · exact .inr ⟨_, _, ‹_›, hc, hh, h⟩
  · exact .inl (by cases h; rfl)

theorem execFlagsRaisedNoticePlaced_next (h : execFlagsRaisedNoticePlaced s = .next t) :
    t = s ∨ s.flagsNoticeReady = true ∧ t = State.place { s with flagsOwed := false } (flagsRaisedFrame s.flags) :=
  whenever_cases h

theorem execGrantWantedNoticePlaced_next (h : execGrantWantedNoticePlaced s = .next t) :
    t = s ∨ ∃ n, s.grantNoticeNode = some n ∧
      t = (State.updateNode { s with owedOrder := s.owedOrder.tail } n fun e => { e with notice := .sent }).place
        (grantWantedFrame n (s.node n).parkOrder.length) := by
  unfold execGrantWantedNoticePlaced at h
  split at h
  · exact .inr ⟨_, ‹_›, by cases h; rfl⟩
  · exact .inl (by cases h; rfl)

/-! ## Timers and the clock -/

theorem execAnswerWindowExpiry_next {i : Slot} (h : execAnswerWindowExpiry i s = .next t) :
    t = s ∨ ∃ e, s.slot i = some e ∧ e.state = .issued ∧ reached? s.now e.answerDue = true ∧ s.handing = false ∧
      t = s.takeSilence i e := by
  unfold execAnswerWindowExpiry State.windowExpires at h
  split at h
  · rename_i e he
    simp [Option.filter_eq_some_iff] at he
    rcases inTurn_cases h with h | ⟨hc, h⟩
    · exact .inl h
    · exact .inr ⟨e, he.1, he.2.1, he.2.2, hc.2, h⟩
  · exact .inl (by cases h; rfl)

theorem execReissueDue_next {i : Slot} (h : execReissueDue i s = .next t) :
    t = s ∨ ∃ e, s.slot i = some e ∧ e.state = .deferred ∧ reached? s.now e.reissueDue = true ∧ s.handing = false ∧
      t = s.becomeReady i e := by
  unfold execReissueDue State.reissueReached at h
  split at h
  · rename_i e he
    simp [Option.filter_eq_some_iff] at he
    rcases inTurn_cases h with h | ⟨hc, h⟩
    · exact .inl h
    · exact .inr ⟨e, he.1, he.2.1, he.2.2, hc.2, h⟩
  · exact .inl (by cases h; rfl)

theorem execLifetimeEnd_next {i : Slot} (h : execLifetimeEnd i s = .next t) :
    t = s ∨ ∃ e, s.slot i = some e ∧ e.lifetimeArmed = true ∧ reached s.now e.lifetimeEnd = true ∧ s.handing = false ∧
      ((e.state = .issued ∧ e.node = 63) ∧ t = s.setSlot i (some { e with lifetimeArmed := false }) ∨
        ¬ (e.state = .issued ∧ e.node = 63) ∧ t = s.endExchange i e .expired) := by
  unfold execLifetimeEnd State.lifetimeReached at h
  split at h
  · rename_i e he
    simp [Option.filter_eq_some_iff] at he
    rcases inTurn_cases h with h | ⟨hc, h⟩
    · exact .inl h
    refine .inr ⟨e, he.1, he.2.1, he.2.2, hc.2, ?_⟩
    unfold State.expire at h
    split at h
    · exact .inl ⟨by simpa [Config.broadcastNode] using ‹_ ∧ _›, h⟩
    · rename_i hn
      exact .inr ⟨by simpa [Config.broadcastNode] using hn, h⟩
  · exact .inl (by cases h; rfl)

theorem execQuietUntilReached_next {n : Nat} (h : execQuietUntilReached n s = .next t) :
    t = s ∨ (s.quietReached n = true ∧ s.handing = false) ∧ t = s.setNodeState n .idle :=
  inTurn_cases h

theorem execCycleStart_next (h : execCycleStart s = .next t) :
    t = s ∨ (s.advanceHeld = true ∧ s.handing = false) ∧ t = s.takeAdvance :=
  inTurn_cases h

/-- What a held advance does (R149): a cycle start at the end of the cycle, and otherwise the phase rises by 1. -/
theorem takeAdvance_cases (s : State) :
    s.atCycleEnd = true ∧ s.takeAdvance = s.endCycle ∨
      s.atCycleEnd = false ∧ s.takeAdvance = { s with phase := s.phase + 1, advanceHeld := false } := by
  unfold State.takeAdvance
  cases s.atCycleEnd <;> simp

theorem execSyncEdge_next (h : execSyncEdge s = .next t) :
    t = s ∨ ((s.edgeDue && s.firstFiring.isNone) = true ∧ s.handing = false) ∧ t = s.takeEdge :=
  inTurn_cases h

theorem execQualifiedLevelChange_next (h : execQualifiedLevelChange s = .next t) :
    t = s ∨ ((s.levelChange == some .against) = true ∧ s.handing = false) ∧ t = s.takeLevel :=
  inTurn_cases h

theorem execScheduleFiring_next {k : EntryIndex} (h : execScheduleFiring k s = .next t) :
    t = s ∨ ((s.firstFiring == some k) = true ∧ s.handing = false) ∧ t = s.fireAt s.phase k :=
  inTurn_cases h

theorem execTick_next {a b c d : Bool} (h : execTick a b c d s = .next t) :
    t = s ∨ s.settled = true ∧ t = s.ticked a b c d :=
  whenever_cases h

/-! ## Admission -/

theorem admission_some (h : s.admission = some t) :
    ∃ f rest p i, s.intake = f :: rest ∧ f.kind = .request ∧ s.judgeRequest f = .accept p ∧ s.lowestFree = some i ∧
      t = State.openExchange { s with intake := rest } i (.head f.tag) f.node.toNat f.function f.payload p := by
  unfold State.admission at h
  split at h
  · cases h
  · split at h
    · cases h
    · split at h <;> cases h
      exact ⟨_, _, _, _, ‹_›, by simp_all, ‹_›, ‹_›, rfl⟩

theorem refusal_some (h : s.refusal = some t) :
    ∃ f rest code, s.intake = f :: rest ∧ f.kind = .request ∧ s.judgeRequest f = .refuse code ∧
      t = (State.tally { s with intake := rest } .refusals).place (refusalFrame f code) := by
  unfold State.refusal at h
  split at h
  · cases h
  · split at h
    · cases h
    · split at h <;> cases h
      exact ⟨_, _, _, ‹_›, by simp_all, ‹_›, rfl⟩

theorem execTakeRequest_next (h : execTakeRequest s = .next t) :
    t = s ∨ ∃ f rest, s.intake = f :: rest ∧ f.kind = .request ∧
      ((∃ p i, s.judgeRequest f = .accept p ∧ s.lowestFree = some i ∧ s.handing = false ∧
          t = State.openExchange { s with intake := rest } i (.head f.tag) f.node.toNat f.function f.payload p) ∨
        (∃ code, s.judgeRequest f = .refuse code ∧ s.controlFree = true ∧
          t = (State.tally { s with intake := rest } .refusals).place (refusalFrame f code))) := by
  unfold execTakeRequest at h
  split at h
  · rcases inTurn_cases h with h | ⟨hc, rfl⟩
    · exact .inl h
    · obtain ⟨f, rest, p, i, h1, h2, h3, h4, h5⟩ := admission_some ‹_›
      exact .inr ⟨f, rest, h1, h2, .inl ⟨p, i, h3, h4, hc.2, h5⟩⟩
  · rcases whenever_cases h with h | ⟨hc, rfl⟩
    · exact .inl h
    · obtain ⟨f, rest, code, h1, h2, h3, h4⟩ := refusal_some ‹_›
      exact .inr ⟨f, rest, h1, h2, .inr ⟨code, h3, hc, h4⟩⟩
  · exact .inl (by cases h; rfl)

end Sys2Proof.Machine
end

