-- ==== Sys2Proof/Laws/Effects.lean ====
section
/-! SUPPORT. Everything a command can do, as one relation: `Effect s c t` lists, command by command, the state a command
leaves when its conditions hold, and `exec_effect` says that a next state is always one of them. -/

namespace Sys2Proof.Machine

/-- What a directive's execution can make of the state it finds, taken and counted already. -/
inductive DirectiveEffect (s : State) : Instr → State → Prop
  | answers (c : Instr) : DirectiveEffect s c s
  | unknown : DirectiveEffect s .unknownDirective (s.tally .unknownDirectives)
  | setParameters (arguments : List Byte) (p : Parameters) (image : parametersOfImage arguments = some p)
      (tolerance : p.syncTolerance < s.params.cycleLength) :
      DirectiveEffect s .setParameters (s.applyParameters p)
  | clearFlags (v : Vector FlagRecord 6) : DirectiveEffect s .clearFlags { s with flags := v }
  | loadPolicy (arguments : List Byte) (p : Policy) (image : policyOfImage arguments = some p)
      (place : (findPolicy s.policies p.key).isSome = true ∨ s.policies.length < 128) :
      DirectiveEffect s .loadPolicy { s with policies := storePolicy p s.policies }
  | dropPolicy (k : PolicyKey) : DirectiveEffect s .dropPolicy { s with policies := dropPolicyKey s.policies k }
  | cancelExchange (i : Slot) (e : Exchange) (tag : Byte) (slot : s.slot i = some e) (origin : e.origin = .head tag)
      (inTime : tooLateToCancel e = false) :
      DirectiveEffect s .cancelExchange (s.endExchange i e .cancelled)
  | cancelNode (n : Nat) (low : 1 ≤ n) (high : n ≤ 62) :
      DirectiveEffect s .cancelNode ((s.slotsByAge (cancelsAtNode n)).foldl State.cancelSlot s)
  | postGrant (n k : Nat) (low : 1 ≤ n) (high : n ≤ 62) (least : 1 ≤ k) (most : k ≤ 15) :
      DirectiveEffect s .postGrant (s.grant n k)
  | withdrawGrant (n : Nat) (low : 1 ≤ n) (high : n ≤ 62) :
      DirectiveEffect s .withdrawGrant (s.updateNode n fun e => { e with credit := 0 })
  | discardParked (n : Nat) (low : 1 ≤ n) (high : n ≤ 62) : DirectiveEffect s .discardParked (s.discard n)
  | loadScheduleEntry (arguments : List Byte) (k : EntryIndex) (fields : ScheduleFields)
      (image : loadEntryOfImage arguments = some (k, fields)) (fits : fields.phase < s.lengthToCome) :
      DirectiveEffect s .loadScheduleEntry (s.updateEntry k fun e => (loadEntry fields e).1)
  | armEntry (k : EntryIndex) (live : ScheduleFields) (idle : (s.entry k).state = .idle)
      (hasLive : (s.entry k).live = some live) (fits : s.phaseFits live.phase = true) :
      DirectiveEffect s .armEntry (s.updateEntry k (armed s.phase live))
  | disarmEntry (k : EntryIndex) (wasArmed : (s.entry k).state = .armed) :
      DirectiveEffect s .disarmEntry (s.updateEntry k disarmed)
  | clearEntry (k : EntryIndex) : DirectiveEffect s .clearEntry (s.updateEntry k clearedEntry)
  | restart : DirectiveEffect s .restart s.restarted

/-- What a command can make of a state. -/
inductive Effect (s : State) : Instr → State → Prop
  | stays (c : Instr) : Effect s c s
  | reset : Effect s .reset { State.reset with pending := s.pending }
  | arrival (c : Instr) (line : Line) (bytes : List Byte)
      (can : s.canArrive line = true ∨ line = .field ∧ s.canReply = true)
      (which : (∃ n t f p, c = .requestArrival n t f p) ∨ (∃ n k a, c = .directiveArrival n k a) ∨
        (∃ n t f p, c = .answerArrival n t f p) ∨ (∃ n t f p, c = .deferArrival n t f p) ∨
        (∃ n t f p, c = .reportArrival n t f p) ∨ ∃ b, c = .malformedFrame line b) :
      Effect s c (s.arrive line bytes)
  | startPatternSeen (line : Line) (up : (s.port line).up = true) (idle : (s.port line).receive = .idle) :
      Effect s (.startPatternSeen line) (s.setPort line { s.port line with receive := .receiving })
  | headLineUp (due : s.headPort.upDue = true) : Effect s .headLineUp { s with headPort := s.headPort.raise }
  | fieldLineUp (due : s.fieldPort.upDue = true) : Effect s .fieldLineUp { s with fieldPort := s.fieldPort.raise }
  | headLineDown (due : s.headPort.downDue = true) :
      Effect s .headLineDown { s.tallyCutShort .head with headPort := s.headPort.lower }
  | fieldLineDown (due : s.fieldPort.downDue = true) (handed : s.handing = false) :
      Effect s .fieldLineDown (s.loseField s.replyWaits)
  | issueSelection (i : Slot) (e : Exchange) (start : s.fieldStart = some (.exchange i)) (slot : s.slot i = some e)
      (node : e.node ≠ 63) : Effect s .issueSelection (s.selectToNode i e)
  | broadcastSelection (i : Slot) (e : Exchange) (start : s.fieldStart = some (.exchange i))
      (slot : s.slot i = some e) (node : e.node = 63) : Effect s .broadcastSelection (s.selectBroadcast i e)
  | receiptTransmitStart (r : Receipt) (start : s.fieldStart = some (.receipt r)) :
      Effect s .receiptTransmitStart
        ((State.startField { s with receipts := s.receipts.tail } (receiptFrame r) (.receipt r)).tally .receiptsSent)
  | issueTransmitCompletion (i : Slot) (n : Nat) (number : Byte) (window : Nat)
      (flight : s.inFlight = some (.issue i n number window)) (node : n ≠ 63)
      (due : s.fieldPort.completing s.now = true) :
      Effect s .issueTransmitCompletion (s.completeIssue n window).endField
  | broadcastTransmitCompletion (i : Slot) (number : Byte) (window : Nat) (e : Exchange)
      (flight : s.inFlight = some (.issue i 63 number window)) (slot : s.slot i = some e) (issued : e.state = .issued)
      (node : e.node = 63) (due : s.fieldPort.completing s.now = true) :
      Effect s .broadcastTransmitCompletion (s.conclude i (completedRecord s e) .sent).endField
  | receiptTransmitCompletion (r : Receipt) (flight : s.inFlight = some (.receipt r))
      (due : s.fieldPort.completing s.now = true) : Effect s .receiptTransmitCompletion s.endField
  | headTransmitStart (f : Frame) (first : s.headStart = some f) :
      Effect s .headTransmitStart { s with headPort := s.headPort.start s.now f }
  | outcomeTransmitCompletion (i : Slot) (rest : List Item) (first : s.delivery = .conclusion i :: rest)
      (due : s.headPort.completing s.now = true) :
      Effect s .outcomeTransmitCompletion (s.completeHead.releaseSlot i)
  | reportDeliveryCompletion (k : StoreIndex) (rest : List Item) (first : s.delivery = .report k :: rest)
      (due : s.headPort.completing s.now = true) :
      Effect s .reportDeliveryCompletion { s.completeHead with store := s.store.set k none }
  | controlTransmitCompletion (f : Frame) (rest : List Item) (first : s.delivery = .control f :: rest)
      (due : s.headPort.completing s.now = true) : Effect s .controlTransmitCompletion s.completeHead
  | answerWindowExpiry (i : Slot) (e : Exchange) (slot : s.slot i = some e) (issued : e.state = .issued)
      (due : reached? s.now e.answerDue = true) : Effect s (.answerWindowExpiry i) (s.takeSilence i e)
  | reissueDue (i : Slot) (e : Exchange) (slot : s.slot i = some e) (deferred : e.state = .deferred)
      (due : reached? s.now e.reissueDue = true) : Effect s (.reissueDue i) (s.becomeReady i e)
  | lifetimeOfBroadcast (i : Slot) (e : Exchange) (slot : s.slot i = some e) (issued : e.state = .issued)
      (node : e.node = 63) : Effect s (.lifetimeEnd i) (s.setSlot i (some { e with lifetimeArmed := false }))
  | lifetimeEnd (i : Slot) (e : Exchange) (slot : s.slot i = some e) (running : ¬ (e.state = .issued ∧ e.node = 63)) :
      Effect s (.lifetimeEnd i) (s.endExchange i e .expired)
  | quietUntilReached (n : Nat) (due : s.quietReached n = true) :
      Effect s (.quietUntilReached n) (s.setNodeState n .idle)
  | cycleStart (held : s.advanceHeld = true) (ends : s.atCycleEnd = true) (handed : s.handing = false) :
      Effect s .cycleStart s.endCycle
  | advance (held : s.advanceHeld = true) (inside : s.atCycleEnd = false) (handed : s.handing = false) :
      Effect s .cycleStart { s with phase := s.phase + 1, advanceHeld := false }
  | syncEdge (due : s.edgeDue = true) (fired : s.firstFiring = none) (handed : s.handing = false) :
      Effect s .syncEdge s.takeEdge
  | qualifiedLevelChange (due : s.levelChange = some .against) : Effect s .qualifiedLevelChange s.takeLevel
  | scheduleFiring (k : EntryIndex) (first : s.firstFiring = some k) (handed : s.handing = false) :
      Effect s (.scheduleFiring k) (s.fireAt s.phase k)
  | requestAdmitted (f : Frame) (rest : List Frame) (p : Policy) (i : Slot) (intake : s.intake = f :: rest)
      (verdict : s.judgeRequest f = .accept p) (free : s.lowestFree = some i) (handed : s.handing = false) :
      Effect s .takeRequest
        (State.openExchange { s with intake := rest } i (.head f.tag) f.node.toNat f.function f.payload p)
  | requestRefused (f : Frame) (rest : List Frame) (code : RefusalCode) (intake : s.intake = f :: rest)
      (verdict : s.judgeRequest f = .refuse code) (place : s.controlFree = true) :
      Effect s .takeRequest ((State.tally { s with intake := rest } .refusals).place (refusalFrame f code))
  | flagsRaisedNoticePlaced (ready : s.flagsNoticeReady = true) :
      Effect s .flagsRaisedNoticePlaced (State.place { s with flagsOwed := false } (flagsRaisedFrame s.flags))
  | grantWantedNoticePlaced (n : Nat) (ready : s.grantNoticeNode = some n) :
      Effect s .grantWantedNoticePlaced
        ((State.updateNode { s with owedOrder := s.owedOrder.tail } n fun e => { e with notice := .sent }).place
          (grantWantedFrame n (s.node n).parkOrder.length))
  | tick (a b c d : Bool) (settled : s.settled = true) : Effect s (.tick a b c d) (s.ticked a b c d)
  | directive (c : Instr) (u : State) (d : Frame) (rest : List Frame) (status : AckStatus) (result : List Byte)
      (intake : s.intake = d :: rest) (place : s.controlFree = true) (body : DirectiveEffect s.taken c u) :
      Effect s c (u.place (acknowledgeFrame d status result))

variable {s t : State}

/-- A directive whose execution has one of the listed effects. -/
theorem directive_effect {code : Byte} {body : List Byte → State → Reply} {c : Instr}
    (hb : ∀ arguments u, DirectiveEffect u c (body arguments u).state) (h : s.directive code body = .next t) :
    Effect s c t := by
  rcases directive_next h with rfl | ⟨d, rest, hi, _, _, hc, rfl⟩
  · exact .stays c
  · exact .directive c _ d rest _ _ hi hc (hb _ _)

theorem noArguments_effect {body : State → Reply} {c : Instr} (hb : ∀ u, DirectiveEffect u c (body u).state)
    (arguments : List Byte) (u : State) : DirectiveEffect u c (noArguments body arguments u).state := by
  rcases noArguments_state (body := body) (arguments := arguments) (s := u) with h | h <;> rw [h]
  · exact .answers c
  · exact hb u

theorem oneByte_effect {α : Type} {read : Nat → Option α} {body : α → State → Reply} {c : Instr}
    (hb : ∀ n a u, read n = some a → DirectiveEffect u c (body a u).state) (arguments : List Byte) (u : State) :
    DirectiveEffect u c (oneByte read body arguments u).state := by
  rcases oneByte_state (read := read) (body := body) (arguments := arguments) (s := u) with h | ⟨a, ha, h⟩ <;> rw [h]
  · exact .answers c
  · exact hb _ a u ha

theorem fieldNodeOf_range {n m : Nat} (h : fieldNodeOf n = some m) : 1 ≤ m ∧ m ≤ 62 := by
  unfold fieldNodeOf at h
  split at h <;> cases h
  assumption

/-- A next state is always one of the listed effects. -/
theorem exec_effect {c : Instr} (h : exec c s = .next t) : Effect s c t := by
  cases c with
  | reset => rw [execReset_next h]; exact .reset
  | requestArrival n t f p =>
    rcases execRequestArrival_next h with rfl | ⟨⟨hc, -⟩, rfl⟩
    · exact .stays _
    · exact .arrival _ _ _ (.inl hc) (.inl ⟨_, _, _, _, rfl⟩)
  | directiveArrival n k a =>
    rcases execDirectiveArrival_next h with rfl | ⟨⟨hc, -⟩, rfl⟩
    · exact .stays _
    · exact .arrival _ _ _ (.inl hc) (.inr (.inl ⟨_, _, _, rfl⟩))
  | malformedFrame l b =>
    rcases execMalformedFrame_next h with rfl | ⟨⟨hc, -⟩, rfl⟩
    · exact .stays _
    · simp only [Bool.and_eq_true] at hc
      exact .arrival _ _ _ (.inl hc.1) (.inr (.inr (.inr (.inr (.inr ⟨_, rfl⟩)))))
  | answerArrival n t f p =>
    rcases execAnswerArrival_next h with rfl | ⟨hc, rfl⟩
    · exact .stays _
    · exact .arrival _ _ _ (.inr ⟨rfl, hc⟩) (.inr (.inr (.inl ⟨_, _, _, _, rfl⟩)))
  | deferArrival n t f p =>
    rcases execDeferArrival_next h with rfl | ⟨hc, rfl⟩
    · exact .stays _
    · exact .arrival _ _ _ (.inr ⟨rfl, hc⟩) (.inr (.inr (.inr (.inl ⟨_, _, _, _, rfl⟩))))
  | reportArrival n t f p =>
    rcases execReportArrival_next h with rfl | ⟨⟨hc, -⟩, rfl⟩
    · exact .stays _
    · exact .arrival _ _ _ (.inl hc) (.inr (.inr (.inr (.inr (.inl ⟨_, _, _, _, rfl⟩)))))
  | headLineDown =>
    rcases execHeadLineDown_next h with rfl | ⟨⟨hc, -⟩, rfl⟩
    · exact .stays _
    · exact .headLineDown hc
  | headLineUp =>
    rcases execHeadLineUp_next h with rfl | ⟨⟨hc, -⟩, rfl⟩
    · exact .stays _
    · exact .headLineUp hc
  | fieldLineDown =>
    rcases execFieldLineDown_next h with rfl | ⟨hc, rfl⟩
    · exact .stays _
    · exact .fieldLineDown hc.1 hc.2
  | fieldLineUp =>
    rcases execFieldLineUp_next h with rfl | ⟨⟨hc, -⟩, rfl⟩
    · exact .stays _
    · exact .fieldLineUp hc
  | issueSelection =>
    rcases execIssueSelection_next h with rfl | ⟨i, e, hc, hs, hn, rfl⟩
    · exact .stays _
    · exact .issueSelection i e hc hs hn
  | broadcastSelection =>
    rcases execBroadcastSelection_next h with rfl | ⟨i, e, hc, hs, hn, rfl⟩
    · exact .stays _
    · exact .broadcastSelection i e hc hs hn
  | receiptTransmitStart =>
    rcases execReceiptTransmitStart_next h with rfl | ⟨r, hc, rfl⟩
    · exact .stays _
    · exact .receiptTransmitStart r hc
  | issueTransmitCompletion =>
    rcases execIssueTransmitCompletion_next h with rfl | ⟨i, n, x, w, hf, hn, hd, -, rfl⟩
    · exact .stays _
    · exact .issueTransmitCompletion i n x w hf hn hd
  | broadcastTransmitCompletion =>
    rcases execBroadcastTransmitCompletion_next h with rfl | ⟨i, x, w, e, hf, hs, he, hn, hd, -, rfl⟩
    · exact .stays _
    · exact .broadcastTransmitCompletion i x w e hf hs he hn hd
  | receiptTransmitCompletion =>
    rcases execReceiptTransmitCompletion_next h with rfl | ⟨r, hf, hd, -, rfl⟩
    · exact .stays _
    · exact .receiptTransmitCompletion r hf hd
  | headTransmitStart =>
    rcases execHeadTransmitStart_next h with rfl | ⟨f, hf, -, rfl⟩
    · exact .stays _
    · exact .headTransmitStart f hf
  | outcomeTransmitCompletion =>
    rcases execOutcomeTransmitCompletion_next h with rfl | ⟨i, rest, hf, hd, -, rfl⟩
    · exact .stays _
    · exact .outcomeTransmitCompletion i rest hf hd
  | reportDeliveryCompletion =>
    rcases execReportDeliveryCompletion_next h with rfl | ⟨k, rest, hf, hd, -, rfl⟩
    · exact .stays _
    · exact .reportDeliveryCompletion k rest hf hd
  | controlTransmitCompletion =>
    rcases execControlTransmitCompletion_next h with rfl | ⟨f, rest, hf, hd, -, rfl⟩
    · exact .stays _
    · exact .controlTransmitCompletion f rest hf hd
  | answerWindowExpiry i =>
    rcases execAnswerWindowExpiry_next h with rfl | ⟨e, hs, he, hd, -, rfl⟩
    · exact .stays _
    · exact .answerWindowExpiry i e hs he hd
  | reissueDue i =>
    rcases execReissueDue_next h with rfl | ⟨e, hs, he, hd, -, rfl⟩
    · exact .stays _
    · exact .reissueDue i e hs he hd
  | lifetimeEnd i =>
    rcases execLifetimeEnd_next h with rfl | ⟨e, hs, _, _, _, ⟨hb, rfl⟩ | ⟨hb, rfl⟩⟩
    · exact .stays _
    · exact .lifetimeOfBroadcast i e hs hb.1 hb.2
    · exact .lifetimeEnd i e hs hb
  | quietUntilReached n =>
    rcases execQuietUntilReached_next h with rfl | ⟨⟨hc, -⟩, rfl⟩
    · exact .stays _
    · exact .quietUntilReached n hc
  | cycleStart =>
    rcases execCycleStart_next h with rfl | ⟨hc, rfl⟩
    · exact .stays _
    · rcases takeAdvance_cases s with ⟨he, h⟩ | ⟨he, h⟩ <;> rw [h]
      · exact .cycleStart hc.1 he hc.2
      · exact .advance hc.1 he hc.2
  | syncEdge =>
    rcases execSyncEdge_next h with rfl | ⟨hc, rfl⟩
    · exact .stays _
    · simp only [Bool.and_eq_true, Option.isNone_iff_eq_none] at hc
      exact .syncEdge hc.1.1 hc.1.2 hc.2
  | qualifiedLevelChange =>
    rcases execQualifiedLevelChange_next h with rfl | ⟨⟨hc, -⟩, rfl⟩
    · exact .stays _
    · exact .qualifiedLevelChange (by simpa using hc)
  | scheduleFiring k =>
    rcases execScheduleFiring_next h with rfl | ⟨hc, rfl⟩
    · exact .stays _
    · exact .scheduleFiring k (by simpa using hc.1) hc.2
  | takeRequest =>
    rcases execTakeRequest_next h with rfl | ⟨f, rest, hi, _, ⟨p, i, hj, hf, hh, rfl⟩ | ⟨code, hj, hc, rfl⟩⟩
    · exact .stays _
    · exact .requestAdmitted f rest p i hi hj hf hh
    · exact .requestRefused f rest code hi hj hc
  | flagsRaisedNoticePlaced =>
    rcases execFlagsRaisedNoticePlaced_next h with rfl | ⟨hc, rfl⟩
    · exact .stays _
    · exact .flagsRaisedNoticePlaced hc
  | grantWantedNoticePlaced =>
    rcases execGrantWantedNoticePlaced_next h with rfl | ⟨n, hn, rfl⟩
    · exact .stays _
    · exact .grantWantedNoticePlaced n hn
  | tick a b c d =>
    rcases execTick_next h with rfl | ⟨hc, rfl⟩
    · exact .stays _
    · exact .tick a b c d hc
  | startPatternSeen l =>
    rcases execStartPatternSeen_next h with rfl | ⟨⟨hc, -⟩, rfl⟩
    · exact .stays _
    · simp only [Bool.and_eq_true, beq_iff_eq] at hc
      exact .startPatternSeen l hc.1 hc.2
  | unknownDirective =>
    rcases execUnknownDirective_next h with rfl | ⟨d, rest, hi, _, hc, rfl⟩
    · exact .stays _
    · exact .directive _ _ d rest _ _ hi hc .unknown
  | fetchIdentity => exact directive_effect (noArguments_effect fun _ => .answers _) h
  | setParameters =>
    refine directive_effect (fun arguments u => ?_) h
    rcases setParametersBody_state arguments u with hb | ⟨p, hp, ht, hb⟩ <;> rw [hb]
    · exact .answers _
    · exact .setParameters arguments p hp ht
  | readParameters => exact directive_effect (noArguments_effect fun _ => .answers _) h
  | readFlags => exact directive_effect (noArguments_effect fun _ => .answers _) h
  | clearFlags =>
    refine directive_effect (fun arguments u => ?_) h
    obtain ⟨v, hb⟩ := clearFlagsBody_state arguments u
    rw [hb]
    exact .clearFlags v
  | readCounters => exact directive_effect (noArguments_effect fun _ => .answers _) h
  | readTimebase => exact directive_effect (noArguments_effect fun _ => .answers _) h
  | loadPolicy =>
    refine directive_effect (fun arguments u => ?_) h
    rcases loadPolicyBody_state arguments u with hb | ⟨p, hp, hl, hb⟩ <;> rw [hb]
    · exact .answers _
    · exact .loadPolicy arguments p hp hl
  | dropPolicy =>
    refine directive_effect (fun arguments u => ?_) h
    rcases dropPolicyBody_state arguments u with hb | ⟨k, hb⟩ <;> rw [hb]
    · exact .answers _
    · exact .dropPolicy k
  | readPolicy =>
    refine directive_effect (fun arguments u => ?_) h
    rw [readPolicyBody_state]
    exact .answers _
  | readExchange => exact directive_effect (oneByte_effect fun _ _ _ _ => .answers _) h
  | readNode => exact directive_effect (oneByte_effect fun _ _ _ _ => .answers _) h
  | cancelExchange =>
    refine directive_effect (oneByte_effect fun _ tag u _ => ?_) h
    rcases cancelExchangeBody_state tag u with hb | ⟨i, e, hs, ho, hl, hb⟩ <;> rw [hb]
    · exact .answers _
    · exact .cancelExchange i e tag hs ho hl
  | cancelNode =>
    refine directive_effect (oneByte_effect fun _ n u hn => ?_) h
    exact .cancelNode n (fieldNodeOf_range hn).1 (fieldNodeOf_range hn).2
  | postGrant =>
    refine directive_effect (fun arguments u => ?_) h
    rcases postGrantBody_state arguments u with hb | ⟨n, k, h1, h2, h3, h4, hb⟩ <;> rw [hb]
    · exact .answers _
    · exact .postGrant n k h1 h2 h3 h4
  | withdrawGrant =>
    refine directive_effect (oneByte_effect fun _ n u hn => ?_) h
    exact .withdrawGrant n (fieldNodeOf_range hn).1 (fieldNodeOf_range hn).2
  | discardParked =>
    refine directive_effect (oneByte_effect fun _ n u hn => ?_) h
    exact .discardParked n (fieldNodeOf_range hn).1 (fieldNodeOf_range hn).2
  | loadScheduleEntry =>
    refine directive_effect (fun arguments u => ?_) h
    rcases loadScheduleEntryBody_state arguments u with hb | ⟨k, f, hi, hp, hb⟩ <;> rw [hb]
    · exact .answers _
    · exact .loadScheduleEntry arguments k f hi hp
  | armEntry =>
    refine directive_effect (oneByte_effect fun _ k u _ => ?_) h
    rcases armEntryBody_state k u with hb | ⟨live, h1, h2, h3, hb⟩ <;> rw [hb]
    · exact .answers _
    · exact .armEntry k live h1 h2 h3
  | disarmEntry =>
    refine directive_effect (oneByte_effect fun _ k u _ => ?_) h
    rcases disarmEntryBody_state k u with hb | ⟨h1, hb⟩ <;> rw [hb]
    · exact .answers _
    · exact .disarmEntry k h1
  | clearEntry => exact directive_effect (oneByte_effect fun _ k _ _ => .clearEntry k) h
  | readScheduleEntry => exact directive_effect (oneByte_effect fun _ _ _ _ => .answers _) h
  | restart => exact directive_effect (noArguments_effect fun _ => .restart) h

end Sys2Proof.Machine
end

