-- ==== Sys2Proof/Laws/Frames.lean ====
section
/-! SUPPORT. The frames of the longer effects: one lemma for each field that an effect leaves as it is. -/

namespace Sys2Proof.Machine

/-- A field that every round of a fold leaves as it is, is left by the fold. -/
theorem foldl_field {α β : Type} (p : State → β) (f : State → α → State) (h : ∀ s a, p (f s a) = p s) (l : List α)
    (s : State) : p (l.foldl f s) = p s := by
  induction l generalizing s with
  | nil => rfl
  | cons a l ih => simp only [List.foldl_cons, ih, h]


/-! ### takeSilence -/

@[simp] theorem State.takeSilence_headPort (s : State) (i : Slot) (e : Exchange) : (s.takeSilence i e).headPort = s.headPort := by
  unfold State.takeSilence; split <;> rfl
@[simp] theorem State.takeSilence_fieldPort (s : State) (i : Slot) (e : Exchange) : (s.takeSilence i e).fieldPort = s.fieldPort := by
  unfold State.takeSilence; split <;> rfl
@[simp] theorem State.takeSilence_intake (s : State) (i : Slot) (e : Exchange) : (s.takeSilence i e).intake = s.intake := by
  unfold State.takeSilence; split <;> rfl
@[simp] theorem State.takeSilence_params (s : State) (i : Slot) (e : Exchange) : (s.takeSilence i e).params = s.params := by
  unfold State.takeSilence; split <;> rfl
@[simp] theorem State.takeSilence_stagedLength (s : State) (i : Slot) (e : Exchange) : (s.takeSilence i e).stagedLength = s.stagedLength := by
  unfold State.takeSilence; split <;> rfl
@[simp] theorem State.takeSilence_flags (s : State) (i : Slot) (e : Exchange) : (s.takeSilence i e).flags = s.flags := by
  unfold State.takeSilence; split <;> rfl
@[simp] theorem State.takeSilence_flagEvent (s : State) (i : Slot) (e : Exchange) : (s.takeSilence i e).flagEvent = s.flagEvent := by
  unfold State.takeSilence; split <;> rfl
@[simp] theorem State.takeSilence_flagsOwed (s : State) (i : Slot) (e : Exchange) : (s.takeSilence i e).flagsOwed = s.flagsOwed := by
  unfold State.takeSilence; split <;> rfl
@[simp] theorem State.takeSilence_policies (s : State) (i : Slot) (e : Exchange) : (s.takeSilence i e).policies = s.policies := by
  unfold State.takeSilence; split <;> rfl
@[simp] theorem State.takeSilence_admissionCounter (s : State) (i : Slot) (e : Exchange) : (s.takeSilence i e).admissionCounter = s.admissionCounter := by
  unfold State.takeSilence; split <;> rfl
@[simp] theorem State.takeSilence_scheduleRun (s : State) (i : Slot) (e : Exchange) : (s.takeSilence i e).scheduleRun = s.scheduleRun := by
  unfold State.takeSilence; split <;> rfl
@[simp] theorem State.takeSilence_inFlight (s : State) (i : Slot) (e : Exchange) : (s.takeSilence i e).inFlight = s.inFlight := by
  unfold State.takeSilence; split <;> rfl
@[simp] theorem State.takeSilence_receipts (s : State) (i : Slot) (e : Exchange) : (s.takeSilence i e).receipts = s.receipts := by
  unfold State.takeSilence; split <;> rfl
@[simp] theorem State.takeSilence_store (s : State) (i : Slot) (e : Exchange) : (s.takeSilence i e).store = s.store := by
  unfold State.takeSilence; split <;> rfl
@[simp] theorem State.takeSilence_owedOrder (s : State) (i : Slot) (e : Exchange) : (s.takeSilence i e).owedOrder = s.owedOrder := by
  unfold State.takeSilence; split <;> rfl
@[simp] theorem State.takeSilence_now (s : State) (i : Slot) (e : Exchange) : (s.takeSilence i e).now = s.now := by
  unfold State.takeSilence; split <;> rfl
@[simp] theorem State.takeSilence_phase (s : State) (i : Slot) (e : Exchange) : (s.takeSilence i e).phase = s.phase := by
  unfold State.takeSilence; split <;> rfl
@[simp] theorem State.takeSilence_cycle (s : State) (i : Slot) (e : Exchange) : (s.takeSilence i e).cycle = s.cycle := by
  unfold State.takeSilence; split <;> rfl
@[simp] theorem State.takeSilence_startKind (s : State) (i : Slot) (e : Exchange) : (s.takeSilence i e).startKind = s.startKind := by
  unfold State.takeSilence; split <;> rfl
@[simp] theorem State.takeSilence_missRun (s : State) (i : Slot) (e : Exchange) : (s.takeSilence i e).missRun = s.missRun := by
  unfold State.takeSilence; split <;> rfl
@[simp] theorem State.takeSilence_lossRaised (s : State) (i : Slot) (e : Exchange) : (s.takeSilence i e).lossRaised = s.lossRaised := by
  unfold State.takeSilence; split <;> rfl
@[simp] theorem State.takeSilence_capture (s : State) (i : Slot) (e : Exchange) : (s.takeSilence i e).capture = s.capture := by
  unfold State.takeSilence; split <;> rfl
@[simp] theorem State.takeSilence_sampled (s : State) (i : Slot) (e : Exchange) : (s.takeSilence i e).sampled = s.sampled := by
  unfold State.takeSilence; split <;> rfl
@[simp] theorem State.takeSilence_qualifiedLevel (s : State) (i : Slot) (e : Exchange) : (s.takeSilence i e).qualifiedLevel = s.qualifiedLevel := by
  unfold State.takeSilence; split <;> rfl
@[simp] theorem State.takeSilence_syncRun (s : State) (i : Slot) (e : Exchange) : (s.takeSilence i e).syncRun = s.syncRun := by
  unfold State.takeSilence; split <;> rfl
@[simp] theorem State.takeSilence_levelChange (s : State) (i : Slot) (e : Exchange) : (s.takeSilence i e).levelChange = s.levelChange := by
  unfold State.takeSilence; split <;> rfl
@[simp] theorem State.takeSilence_schedule (s : State) (i : Slot) (e : Exchange) : (s.takeSilence i e).schedule = s.schedule := by
  unfold State.takeSilence; split <;> rfl
@[simp] theorem State.takeSilence_advanceHeld (s : State) (i : Slot) (e : Exchange) : (s.takeSilence i e).advanceHeld = s.advanceHeld := by
  unfold State.takeSilence; split <;> rfl
@[simp] theorem State.takeSilence_pending (s : State) (i : Slot) (e : Exchange) : (s.takeSilence i e).pending = s.pending := by
  unfold State.takeSilence; split <;> rfl

/-! ### endExchange -/

@[simp] theorem State.endExchange_headPort (s : State) (i : Slot) (e : Exchange) (o : OutcomeCode) : (s.endExchange i e o).headPort = s.headPort := by
  unfold State.endExchange; repeat' split
  all_goals rfl
@[simp] theorem State.endExchange_fieldPort (s : State) (i : Slot) (e : Exchange) (o : OutcomeCode) : (s.endExchange i e o).fieldPort = s.fieldPort := by
  unfold State.endExchange; repeat' split
  all_goals rfl
@[simp] theorem State.endExchange_intake (s : State) (i : Slot) (e : Exchange) (o : OutcomeCode) : (s.endExchange i e o).intake = s.intake := by
  unfold State.endExchange; repeat' split
  all_goals rfl
@[simp] theorem State.endExchange_params (s : State) (i : Slot) (e : Exchange) (o : OutcomeCode) : (s.endExchange i e o).params = s.params := by
  unfold State.endExchange; repeat' split
  all_goals rfl
@[simp] theorem State.endExchange_stagedLength (s : State) (i : Slot) (e : Exchange) (o : OutcomeCode) : (s.endExchange i e o).stagedLength = s.stagedLength := by
  unfold State.endExchange; repeat' split
  all_goals rfl
@[simp] theorem State.endExchange_flags (s : State) (i : Slot) (e : Exchange) (o : OutcomeCode) : (s.endExchange i e o).flags = s.flags := by
  unfold State.endExchange; repeat' split
  all_goals rfl
@[simp] theorem State.endExchange_flagEvent (s : State) (i : Slot) (e : Exchange) (o : OutcomeCode) : (s.endExchange i e o).flagEvent = s.flagEvent := by
  unfold State.endExchange; repeat' split
  all_goals rfl
@[simp] theorem State.endExchange_flagsOwed (s : State) (i : Slot) (e : Exchange) (o : OutcomeCode) : (s.endExchange i e o).flagsOwed = s.flagsOwed := by
  unfold State.endExchange; repeat' split
  all_goals rfl
@[simp] theorem State.endExchange_policies (s : State) (i : Slot) (e : Exchange) (o : OutcomeCode) : (s.endExchange i e o).policies = s.policies := by
  unfold State.endExchange; repeat' split
  all_goals rfl
@[simp] theorem State.endExchange_admissionCounter (s : State) (i : Slot) (e : Exchange) (o : OutcomeCode) : (s.endExchange i e o).admissionCounter = s.admissionCounter := by
  unfold State.endExchange; repeat' split
  all_goals rfl
@[simp] theorem State.endExchange_scheduleRun (s : State) (i : Slot) (e : Exchange) (o : OutcomeCode) : (s.endExchange i e o).scheduleRun = s.scheduleRun := by
  unfold State.endExchange; repeat' split
  all_goals rfl
@[simp] theorem State.endExchange_inFlight (s : State) (i : Slot) (e : Exchange) (o : OutcomeCode) : (s.endExchange i e o).inFlight = s.inFlight := by
  unfold State.endExchange; repeat' split
  all_goals rfl
@[simp] theorem State.endExchange_receipts (s : State) (i : Slot) (e : Exchange) (o : OutcomeCode) : (s.endExchange i e o).receipts = s.receipts := by
  unfold State.endExchange; repeat' split
  all_goals rfl
@[simp] theorem State.endExchange_store (s : State) (i : Slot) (e : Exchange) (o : OutcomeCode) : (s.endExchange i e o).store = s.store := by
  unfold State.endExchange; repeat' split
  all_goals rfl
@[simp] theorem State.endExchange_owedOrder (s : State) (i : Slot) (e : Exchange) (o : OutcomeCode) : (s.endExchange i e o).owedOrder = s.owedOrder := by
  unfold State.endExchange; repeat' split
  all_goals rfl
@[simp] theorem State.endExchange_now (s : State) (i : Slot) (e : Exchange) (o : OutcomeCode) : (s.endExchange i e o).now = s.now := by
  unfold State.endExchange; repeat' split
  all_goals rfl
@[simp] theorem State.endExchange_phase (s : State) (i : Slot) (e : Exchange) (o : OutcomeCode) : (s.endExchange i e o).phase = s.phase := by
  unfold State.endExchange; repeat' split
  all_goals rfl
@[simp] theorem State.endExchange_cycle (s : State) (i : Slot) (e : Exchange) (o : OutcomeCode) : (s.endExchange i e o).cycle = s.cycle := by
  unfold State.endExchange; repeat' split
  all_goals rfl
@[simp] theorem State.endExchange_startKind (s : State) (i : Slot) (e : Exchange) (o : OutcomeCode) : (s.endExchange i e o).startKind = s.startKind := by
  unfold State.endExchange; repeat' split
  all_goals rfl
@[simp] theorem State.endExchange_missRun (s : State) (i : Slot) (e : Exchange) (o : OutcomeCode) : (s.endExchange i e o).missRun = s.missRun := by
  unfold State.endExchange; repeat' split
  all_goals rfl
@[simp] theorem State.endExchange_lossRaised (s : State) (i : Slot) (e : Exchange) (o : OutcomeCode) : (s.endExchange i e o).lossRaised = s.lossRaised := by
  unfold State.endExchange; repeat' split
  all_goals rfl
@[simp] theorem State.endExchange_capture (s : State) (i : Slot) (e : Exchange) (o : OutcomeCode) : (s.endExchange i e o).capture = s.capture := by
  unfold State.endExchange; repeat' split
  all_goals rfl
@[simp] theorem State.endExchange_sampled (s : State) (i : Slot) (e : Exchange) (o : OutcomeCode) : (s.endExchange i e o).sampled = s.sampled := by
  unfold State.endExchange; repeat' split
  all_goals rfl
@[simp] theorem State.endExchange_qualifiedLevel (s : State) (i : Slot) (e : Exchange) (o : OutcomeCode) : (s.endExchange i e o).qualifiedLevel = s.qualifiedLevel := by
  unfold State.endExchange; repeat' split
  all_goals rfl
@[simp] theorem State.endExchange_syncRun (s : State) (i : Slot) (e : Exchange) (o : OutcomeCode) : (s.endExchange i e o).syncRun = s.syncRun := by
  unfold State.endExchange; repeat' split
  all_goals rfl
@[simp] theorem State.endExchange_levelChange (s : State) (i : Slot) (e : Exchange) (o : OutcomeCode) : (s.endExchange i e o).levelChange = s.levelChange := by
  unfold State.endExchange; repeat' split
  all_goals rfl
@[simp] theorem State.endExchange_schedule (s : State) (i : Slot) (e : Exchange) (o : OutcomeCode) : (s.endExchange i e o).schedule = s.schedule := by
  unfold State.endExchange; repeat' split
  all_goals rfl
@[simp] theorem State.endExchange_advanceHeld (s : State) (i : Slot) (e : Exchange) (o : OutcomeCode) : (s.endExchange i e o).advanceHeld = s.advanceHeld := by
  unfold State.endExchange; repeat' split
  all_goals rfl
@[simp] theorem State.endExchange_pending (s : State) (i : Slot) (e : Exchange) (o : OutcomeCode) : (s.endExchange i e o).pending = s.pending := by
  unfold State.endExchange; repeat' split
  all_goals rfl

/-! ### loseIssue -/

@[simp] theorem State.loseIssue_headPort (s : State) (i : Slot) : (s.loseIssue i).headPort = s.headPort := by
  unfold State.loseIssue; repeat' split
  all_goals rfl
@[simp] theorem State.loseIssue_fieldPort (s : State) (i : Slot) : (s.loseIssue i).fieldPort = s.fieldPort := by
  unfold State.loseIssue; repeat' split
  all_goals rfl
@[simp] theorem State.loseIssue_intake (s : State) (i : Slot) : (s.loseIssue i).intake = s.intake := by
  unfold State.loseIssue; repeat' split
  all_goals rfl
@[simp] theorem State.loseIssue_params (s : State) (i : Slot) : (s.loseIssue i).params = s.params := by
  unfold State.loseIssue; repeat' split
  all_goals rfl
@[simp] theorem State.loseIssue_stagedLength (s : State) (i : Slot) : (s.loseIssue i).stagedLength = s.stagedLength := by
  unfold State.loseIssue; repeat' split
  all_goals rfl
@[simp] theorem State.loseIssue_flags (s : State) (i : Slot) : (s.loseIssue i).flags = s.flags := by
  unfold State.loseIssue; repeat' split
  all_goals rfl
@[simp] theorem State.loseIssue_flagEvent (s : State) (i : Slot) : (s.loseIssue i).flagEvent = s.flagEvent := by
  unfold State.loseIssue; repeat' split
  all_goals rfl
@[simp] theorem State.loseIssue_flagsOwed (s : State) (i : Slot) : (s.loseIssue i).flagsOwed = s.flagsOwed := by
  unfold State.loseIssue; repeat' split
  all_goals rfl
@[simp] theorem State.loseIssue_policies (s : State) (i : Slot) : (s.loseIssue i).policies = s.policies := by
  unfold State.loseIssue; repeat' split
  all_goals rfl
@[simp] theorem State.loseIssue_admissionCounter (s : State) (i : Slot) : (s.loseIssue i).admissionCounter = s.admissionCounter := by
  unfold State.loseIssue; repeat' split
  all_goals rfl
@[simp] theorem State.loseIssue_scheduleRun (s : State) (i : Slot) : (s.loseIssue i).scheduleRun = s.scheduleRun := by
  unfold State.loseIssue; repeat' split
  all_goals rfl
@[simp] theorem State.loseIssue_inFlight (s : State) (i : Slot) : (s.loseIssue i).inFlight = s.inFlight := by
  unfold State.loseIssue; repeat' split
  all_goals rfl
@[simp] theorem State.loseIssue_receipts (s : State) (i : Slot) : (s.loseIssue i).receipts = s.receipts := by
  unfold State.loseIssue; repeat' split
  all_goals rfl
@[simp] theorem State.loseIssue_store (s : State) (i : Slot) : (s.loseIssue i).store = s.store := by
  unfold State.loseIssue; repeat' split
  all_goals rfl
@[simp] theorem State.loseIssue_owedOrder (s : State) (i : Slot) : (s.loseIssue i).owedOrder = s.owedOrder := by
  unfold State.loseIssue; repeat' split
  all_goals rfl
@[simp] theorem State.loseIssue_now (s : State) (i : Slot) : (s.loseIssue i).now = s.now := by
  unfold State.loseIssue; repeat' split
  all_goals rfl
@[simp] theorem State.loseIssue_phase (s : State) (i : Slot) : (s.loseIssue i).phase = s.phase := by
  unfold State.loseIssue; repeat' split
  all_goals rfl
@[simp] theorem State.loseIssue_cycle (s : State) (i : Slot) : (s.loseIssue i).cycle = s.cycle := by
  unfold State.loseIssue; repeat' split
  all_goals rfl
@[simp] theorem State.loseIssue_startKind (s : State) (i : Slot) : (s.loseIssue i).startKind = s.startKind := by
  unfold State.loseIssue; repeat' split
  all_goals rfl
@[simp] theorem State.loseIssue_missRun (s : State) (i : Slot) : (s.loseIssue i).missRun = s.missRun := by
  unfold State.loseIssue; repeat' split
  all_goals rfl
@[simp] theorem State.loseIssue_lossRaised (s : State) (i : Slot) : (s.loseIssue i).lossRaised = s.lossRaised := by
  unfold State.loseIssue; repeat' split
  all_goals rfl
@[simp] theorem State.loseIssue_capture (s : State) (i : Slot) : (s.loseIssue i).capture = s.capture := by
  unfold State.loseIssue; repeat' split
  all_goals rfl
@[simp] theorem State.loseIssue_sampled (s : State) (i : Slot) : (s.loseIssue i).sampled = s.sampled := by
  unfold State.loseIssue; repeat' split
  all_goals rfl
@[simp] theorem State.loseIssue_qualifiedLevel (s : State) (i : Slot) : (s.loseIssue i).qualifiedLevel = s.qualifiedLevel := by
  unfold State.loseIssue; repeat' split
  all_goals rfl
@[simp] theorem State.loseIssue_syncRun (s : State) (i : Slot) : (s.loseIssue i).syncRun = s.syncRun := by
  unfold State.loseIssue; repeat' split
  all_goals rfl
@[simp] theorem State.loseIssue_levelChange (s : State) (i : Slot) : (s.loseIssue i).levelChange = s.levelChange := by
  unfold State.loseIssue; repeat' split
  all_goals rfl
@[simp] theorem State.loseIssue_schedule (s : State) (i : Slot) : (s.loseIssue i).schedule = s.schedule := by
  unfold State.loseIssue; repeat' split
  all_goals rfl
@[simp] theorem State.loseIssue_advanceHeld (s : State) (i : Slot) : (s.loseIssue i).advanceHeld = s.advanceHeld := by
  unfold State.loseIssue; repeat' split
  all_goals rfl
@[simp] theorem State.loseIssue_pending (s : State) (i : Slot) : (s.loseIssue i).pending = s.pending := by
  unfold State.loseIssue; repeat' split
  all_goals rfl

/-! ### cancelSlot -/

@[simp] theorem State.cancelSlot_headPort (s : State) (i : Slot) : (s.cancelSlot i).headPort = s.headPort := by
  unfold State.cancelSlot; split <;> simp
@[simp] theorem State.cancelSlot_fieldPort (s : State) (i : Slot) : (s.cancelSlot i).fieldPort = s.fieldPort := by
  unfold State.cancelSlot; split <;> simp
@[simp] theorem State.cancelSlot_intake (s : State) (i : Slot) : (s.cancelSlot i).intake = s.intake := by
  unfold State.cancelSlot; split <;> simp
@[simp] theorem State.cancelSlot_params (s : State) (i : Slot) : (s.cancelSlot i).params = s.params := by
  unfold State.cancelSlot; split <;> simp
@[simp] theorem State.cancelSlot_stagedLength (s : State) (i : Slot) : (s.cancelSlot i).stagedLength = s.stagedLength := by
  unfold State.cancelSlot; split <;> simp
@[simp] theorem State.cancelSlot_flags (s : State) (i : Slot) : (s.cancelSlot i).flags = s.flags := by
  unfold State.cancelSlot; split <;> simp
@[simp] theorem State.cancelSlot_flagEvent (s : State) (i : Slot) : (s.cancelSlot i).flagEvent = s.flagEvent := by
  unfold State.cancelSlot; split <;> simp
@[simp] theorem State.cancelSlot_flagsOwed (s : State) (i : Slot) : (s.cancelSlot i).flagsOwed = s.flagsOwed := by
  unfold State.cancelSlot; split <;> simp
@[simp] theorem State.cancelSlot_policies (s : State) (i : Slot) : (s.cancelSlot i).policies = s.policies := by
  unfold State.cancelSlot; split <;> simp
@[simp] theorem State.cancelSlot_admissionCounter (s : State) (i : Slot) : (s.cancelSlot i).admissionCounter = s.admissionCounter := by
  unfold State.cancelSlot; split <;> simp
@[simp] theorem State.cancelSlot_scheduleRun (s : State) (i : Slot) : (s.cancelSlot i).scheduleRun = s.scheduleRun := by
  unfold State.cancelSlot; split <;> simp
@[simp] theorem State.cancelSlot_inFlight (s : State) (i : Slot) : (s.cancelSlot i).inFlight = s.inFlight := by
  unfold State.cancelSlot; split <;> simp
@[simp] theorem State.cancelSlot_receipts (s : State) (i : Slot) : (s.cancelSlot i).receipts = s.receipts := by
  unfold State.cancelSlot; split <;> simp
@[simp] theorem State.cancelSlot_store (s : State) (i : Slot) : (s.cancelSlot i).store = s.store := by
  unfold State.cancelSlot; split <;> simp
@[simp] theorem State.cancelSlot_owedOrder (s : State) (i : Slot) : (s.cancelSlot i).owedOrder = s.owedOrder := by
  unfold State.cancelSlot; split <;> simp
@[simp] theorem State.cancelSlot_now (s : State) (i : Slot) : (s.cancelSlot i).now = s.now := by
  unfold State.cancelSlot; split <;> simp
@[simp] theorem State.cancelSlot_phase (s : State) (i : Slot) : (s.cancelSlot i).phase = s.phase := by
  unfold State.cancelSlot; split <;> simp
@[simp] theorem State.cancelSlot_cycle (s : State) (i : Slot) : (s.cancelSlot i).cycle = s.cycle := by
  unfold State.cancelSlot; split <;> simp
@[simp] theorem State.cancelSlot_startKind (s : State) (i : Slot) : (s.cancelSlot i).startKind = s.startKind := by
  unfold State.cancelSlot; split <;> simp
@[simp] theorem State.cancelSlot_missRun (s : State) (i : Slot) : (s.cancelSlot i).missRun = s.missRun := by
  unfold State.cancelSlot; split <;> simp
@[simp] theorem State.cancelSlot_lossRaised (s : State) (i : Slot) : (s.cancelSlot i).lossRaised = s.lossRaised := by
  unfold State.cancelSlot; split <;> simp
@[simp] theorem State.cancelSlot_capture (s : State) (i : Slot) : (s.cancelSlot i).capture = s.capture := by
  unfold State.cancelSlot; split <;> simp
@[simp] theorem State.cancelSlot_sampled (s : State) (i : Slot) : (s.cancelSlot i).sampled = s.sampled := by
  unfold State.cancelSlot; split <;> simp
@[simp] theorem State.cancelSlot_qualifiedLevel (s : State) (i : Slot) : (s.cancelSlot i).qualifiedLevel = s.qualifiedLevel := by
  unfold State.cancelSlot; split <;> simp
@[simp] theorem State.cancelSlot_syncRun (s : State) (i : Slot) : (s.cancelSlot i).syncRun = s.syncRun := by
  unfold State.cancelSlot; split <;> simp
@[simp] theorem State.cancelSlot_levelChange (s : State) (i : Slot) : (s.cancelSlot i).levelChange = s.levelChange := by
  unfold State.cancelSlot; split <;> simp
@[simp] theorem State.cancelSlot_schedule (s : State) (i : Slot) : (s.cancelSlot i).schedule = s.schedule := by
  unfold State.cancelSlot; split <;> simp
@[simp] theorem State.cancelSlot_advanceHeld (s : State) (i : Slot) : (s.cancelSlot i).advanceHeld = s.advanceHeld := by
  unfold State.cancelSlot; split <;> simp
@[simp] theorem State.cancelSlot_pending (s : State) (i : Slot) : (s.cancelSlot i).pending = s.pending := by
  unfold State.cancelSlot; split <;> simp

/-! ### takeStale -/

@[simp] theorem State.takeStale_headPort (s : State) : (s.takeStale).headPort = s.headPort := rfl
@[simp] theorem State.takeStale_fieldPort (s : State) : (s.takeStale).fieldPort = s.fieldPort := rfl
@[simp] theorem State.takeStale_intake (s : State) : (s.takeStale).intake = s.intake := rfl
@[simp] theorem State.takeStale_params (s : State) : (s.takeStale).params = s.params := rfl
@[simp] theorem State.takeStale_stagedLength (s : State) : (s.takeStale).stagedLength = s.stagedLength := rfl
@[simp] theorem State.takeStale_flags (s : State) : (s.takeStale).flags = s.flags := rfl
@[simp] theorem State.takeStale_flagEvent (s : State) : (s.takeStale).flagEvent = s.flagEvent := rfl
@[simp] theorem State.takeStale_flagsOwed (s : State) : (s.takeStale).flagsOwed = s.flagsOwed := rfl
@[simp] theorem State.takeStale_policies (s : State) : (s.takeStale).policies = s.policies := rfl
@[simp] theorem State.takeStale_slots (s : State) : (s.takeStale).slots = s.slots := rfl
@[simp] theorem State.takeStale_admissionCounter (s : State) : (s.takeStale).admissionCounter = s.admissionCounter := rfl
@[simp] theorem State.takeStale_pendingOrder (s : State) : (s.takeStale).pendingOrder = s.pendingOrder := rfl
@[simp] theorem State.takeStale_deferralList (s : State) : (s.takeStale).deferralList = s.deferralList := rfl
@[simp] theorem State.takeStale_nodes (s : State) : (s.takeStale).nodes = s.nodes := rfl
@[simp] theorem State.takeStale_scheduleRun (s : State) : (s.takeStale).scheduleRun = s.scheduleRun := rfl
@[simp] theorem State.takeStale_inFlight (s : State) : (s.takeStale).inFlight = s.inFlight := rfl
@[simp] theorem State.takeStale_receipts (s : State) : (s.takeStale).receipts = s.receipts := rfl
@[simp] theorem State.takeStale_store (s : State) : (s.takeStale).store = s.store := rfl
@[simp] theorem State.takeStale_owedOrder (s : State) : (s.takeStale).owedOrder = s.owedOrder := rfl
@[simp] theorem State.takeStale_now (s : State) : (s.takeStale).now = s.now := rfl
@[simp] theorem State.takeStale_phase (s : State) : (s.takeStale).phase = s.phase := rfl
@[simp] theorem State.takeStale_cycle (s : State) : (s.takeStale).cycle = s.cycle := rfl
@[simp] theorem State.takeStale_startKind (s : State) : (s.takeStale).startKind = s.startKind := rfl
@[simp] theorem State.takeStale_missRun (s : State) : (s.takeStale).missRun = s.missRun := rfl
@[simp] theorem State.takeStale_lossRaised (s : State) : (s.takeStale).lossRaised = s.lossRaised := rfl
@[simp] theorem State.takeStale_capture (s : State) : (s.takeStale).capture = s.capture := rfl
@[simp] theorem State.takeStale_sampled (s : State) : (s.takeStale).sampled = s.sampled := rfl
@[simp] theorem State.takeStale_qualifiedLevel (s : State) : (s.takeStale).qualifiedLevel = s.qualifiedLevel := rfl
@[simp] theorem State.takeStale_syncRun (s : State) : (s.takeStale).syncRun = s.syncRun := rfl
@[simp] theorem State.takeStale_levelChange (s : State) : (s.takeStale).levelChange = s.levelChange := rfl
@[simp] theorem State.takeStale_schedule (s : State) : (s.takeStale).schedule = s.schedule := rfl
@[simp] theorem State.takeStale_delivery (s : State) : (s.takeStale).delivery = s.delivery := rfl
@[simp] theorem State.takeStale_advanceHeld (s : State) : (s.takeStale).advanceHeld = s.advanceHeld := rfl
@[simp] theorem State.takeStale_pending (s : State) : (s.takeStale).pending = s.pending := rfl

/-! ### takeLate -/

@[simp] theorem State.takeLate_headPort (s : State) (n : Nat) : (s.takeLate n).headPort = s.headPort := rfl
@[simp] theorem State.takeLate_fieldPort (s : State) (n : Nat) : (s.takeLate n).fieldPort = s.fieldPort := rfl
@[simp] theorem State.takeLate_intake (s : State) (n : Nat) : (s.takeLate n).intake = s.intake := rfl
@[simp] theorem State.takeLate_params (s : State) (n : Nat) : (s.takeLate n).params = s.params := rfl
@[simp] theorem State.takeLate_stagedLength (s : State) (n : Nat) : (s.takeLate n).stagedLength = s.stagedLength := rfl
@[simp] theorem State.takeLate_flags (s : State) (n : Nat) : (s.takeLate n).flags = s.flags := rfl
@[simp] theorem State.takeLate_flagEvent (s : State) (n : Nat) : (s.takeLate n).flagEvent = s.flagEvent := rfl
@[simp] theorem State.takeLate_flagsOwed (s : State) (n : Nat) : (s.takeLate n).flagsOwed = s.flagsOwed := rfl
@[simp] theorem State.takeLate_policies (s : State) (n : Nat) : (s.takeLate n).policies = s.policies := rfl
@[simp] theorem State.takeLate_slots (s : State) (n : Nat) : (s.takeLate n).slots = s.slots := rfl
@[simp] theorem State.takeLate_admissionCounter (s : State) (n : Nat) : (s.takeLate n).admissionCounter = s.admissionCounter := rfl
@[simp] theorem State.takeLate_pendingOrder (s : State) (n : Nat) : (s.takeLate n).pendingOrder = s.pendingOrder := rfl
@[simp] theorem State.takeLate_deferralList (s : State) (n : Nat) : (s.takeLate n).deferralList = s.deferralList := rfl
@[simp] theorem State.takeLate_scheduleRun (s : State) (n : Nat) : (s.takeLate n).scheduleRun = s.scheduleRun := rfl
@[simp] theorem State.takeLate_inFlight (s : State) (n : Nat) : (s.takeLate n).inFlight = s.inFlight := rfl
@[simp] theorem State.takeLate_receipts (s : State) (n : Nat) : (s.takeLate n).receipts = s.receipts := rfl
@[simp] theorem State.takeLate_store (s : State) (n : Nat) : (s.takeLate n).store = s.store := rfl
@[simp] theorem State.takeLate_owedOrder (s : State) (n : Nat) : (s.takeLate n).owedOrder = s.owedOrder := rfl
@[simp] theorem State.takeLate_now (s : State) (n : Nat) : (s.takeLate n).now = s.now := rfl
@[simp] theorem State.takeLate_phase (s : State) (n : Nat) : (s.takeLate n).phase = s.phase := rfl
@[simp] theorem State.takeLate_cycle (s : State) (n : Nat) : (s.takeLate n).cycle = s.cycle := rfl
@[simp] theorem State.takeLate_startKind (s : State) (n : Nat) : (s.takeLate n).startKind = s.startKind := rfl
@[simp] theorem State.takeLate_missRun (s : State) (n : Nat) : (s.takeLate n).missRun = s.missRun := rfl
@[simp] theorem State.takeLate_lossRaised (s : State) (n : Nat) : (s.takeLate n).lossRaised = s.lossRaised := rfl
@[simp] theorem State.takeLate_capture (s : State) (n : Nat) : (s.takeLate n).capture = s.capture := rfl
@[simp] theorem State.takeLate_sampled (s : State) (n : Nat) : (s.takeLate n).sampled = s.sampled := rfl
@[simp] theorem State.takeLate_qualifiedLevel (s : State) (n : Nat) : (s.takeLate n).qualifiedLevel = s.qualifiedLevel := rfl
@[simp] theorem State.takeLate_syncRun (s : State) (n : Nat) : (s.takeLate n).syncRun = s.syncRun := rfl
@[simp] theorem State.takeLate_levelChange (s : State) (n : Nat) : (s.takeLate n).levelChange = s.levelChange := rfl
@[simp] theorem State.takeLate_schedule (s : State) (n : Nat) : (s.takeLate n).schedule = s.schedule := rfl
@[simp] theorem State.takeLate_delivery (s : State) (n : Nat) : (s.takeLate n).delivery = s.delivery := rfl
@[simp] theorem State.takeLate_advanceHeld (s : State) (n : Nat) : (s.takeLate n).advanceHeld = s.advanceHeld := rfl
@[simp] theorem State.takeLate_pending (s : State) (n : Nat) : (s.takeLate n).pending = s.pending := rfl

/-! ### takeAnswer -/

@[simp] theorem State.takeAnswer_headPort (s : State) (i : Slot) (e : Exchange) (d : List Byte) : (s.takeAnswer i e d).headPort = s.headPort := by
  unfold State.takeAnswer; simp only; split <;> simp
@[simp] theorem State.takeAnswer_fieldPort (s : State) (i : Slot) (e : Exchange) (d : List Byte) : (s.takeAnswer i e d).fieldPort = s.fieldPort := by
  unfold State.takeAnswer; simp only; split <;> simp
@[simp] theorem State.takeAnswer_intake (s : State) (i : Slot) (e : Exchange) (d : List Byte) : (s.takeAnswer i e d).intake = s.intake := by
  unfold State.takeAnswer; simp only; split <;> simp
@[simp] theorem State.takeAnswer_params (s : State) (i : Slot) (e : Exchange) (d : List Byte) : (s.takeAnswer i e d).params = s.params := by
  unfold State.takeAnswer; simp only; split <;> simp
@[simp] theorem State.takeAnswer_stagedLength (s : State) (i : Slot) (e : Exchange) (d : List Byte) : (s.takeAnswer i e d).stagedLength = s.stagedLength := by
  unfold State.takeAnswer; simp only; split <;> simp
@[simp] theorem State.takeAnswer_flags (s : State) (i : Slot) (e : Exchange) (d : List Byte) : (s.takeAnswer i e d).flags = s.flags := by
  unfold State.takeAnswer; simp only; split <;> simp
@[simp] theorem State.takeAnswer_flagEvent (s : State) (i : Slot) (e : Exchange) (d : List Byte) : (s.takeAnswer i e d).flagEvent = s.flagEvent := by
  unfold State.takeAnswer; simp only; split <;> simp
@[simp] theorem State.takeAnswer_flagsOwed (s : State) (i : Slot) (e : Exchange) (d : List Byte) : (s.takeAnswer i e d).flagsOwed = s.flagsOwed := by
  unfold State.takeAnswer; simp only; split <;> simp
@[simp] theorem State.takeAnswer_policies (s : State) (i : Slot) (e : Exchange) (d : List Byte) : (s.takeAnswer i e d).policies = s.policies := by
  unfold State.takeAnswer; simp only; split <;> simp
@[simp] theorem State.takeAnswer_admissionCounter (s : State) (i : Slot) (e : Exchange) (d : List Byte) : (s.takeAnswer i e d).admissionCounter = s.admissionCounter := by
  unfold State.takeAnswer; simp only; split <;> simp
@[simp] theorem State.takeAnswer_scheduleRun (s : State) (i : Slot) (e : Exchange) (d : List Byte) : (s.takeAnswer i e d).scheduleRun = s.scheduleRun := by
  unfold State.takeAnswer; simp only; split <;> simp
@[simp] theorem State.takeAnswer_inFlight (s : State) (i : Slot) (e : Exchange) (d : List Byte) : (s.takeAnswer i e d).inFlight = s.inFlight := by
  unfold State.takeAnswer; simp only; split <;> simp
@[simp] theorem State.takeAnswer_receipts (s : State) (i : Slot) (e : Exchange) (d : List Byte) : (s.takeAnswer i e d).receipts = s.receipts := by
  unfold State.takeAnswer; simp only; split <;> simp
@[simp] theorem State.takeAnswer_store (s : State) (i : Slot) (e : Exchange) (d : List Byte) : (s.takeAnswer i e d).store = s.store := by
  unfold State.takeAnswer; simp only; split <;> simp
@[simp] theorem State.takeAnswer_owedOrder (s : State) (i : Slot) (e : Exchange) (d : List Byte) : (s.takeAnswer i e d).owedOrder = s.owedOrder := by
  unfold State.takeAnswer; simp only; split <;> simp
@[simp] theorem State.takeAnswer_now (s : State) (i : Slot) (e : Exchange) (d : List Byte) : (s.takeAnswer i e d).now = s.now := by
  unfold State.takeAnswer; simp only; split <;> simp
@[simp] theorem State.takeAnswer_phase (s : State) (i : Slot) (e : Exchange) (d : List Byte) : (s.takeAnswer i e d).phase = s.phase := by
  unfold State.takeAnswer; simp only; split <;> simp
@[simp] theorem State.takeAnswer_cycle (s : State) (i : Slot) (e : Exchange) (d : List Byte) : (s.takeAnswer i e d).cycle = s.cycle := by
  unfold State.takeAnswer; simp only; split <;> simp
@[simp] theorem State.takeAnswer_startKind (s : State) (i : Slot) (e : Exchange) (d : List Byte) : (s.takeAnswer i e d).startKind = s.startKind := by
  unfold State.takeAnswer; simp only; split <;> simp
@[simp] theorem State.takeAnswer_missRun (s : State) (i : Slot) (e : Exchange) (d : List Byte) : (s.takeAnswer i e d).missRun = s.missRun := by
  unfold State.takeAnswer; simp only; split <;> simp
@[simp] theorem State.takeAnswer_lossRaised (s : State) (i : Slot) (e : Exchange) (d : List Byte) : (s.takeAnswer i e d).lossRaised = s.lossRaised := by
  unfold State.takeAnswer; simp only; split <;> simp
@[simp] theorem State.takeAnswer_capture (s : State) (i : Slot) (e : Exchange) (d : List Byte) : (s.takeAnswer i e d).capture = s.capture := by
  unfold State.takeAnswer; simp only; split <;> simp
@[simp] theorem State.takeAnswer_sampled (s : State) (i : Slot) (e : Exchange) (d : List Byte) : (s.takeAnswer i e d).sampled = s.sampled := by
  unfold State.takeAnswer; simp only; split <;> simp
@[simp] theorem State.takeAnswer_qualifiedLevel (s : State) (i : Slot) (e : Exchange) (d : List Byte) : (s.takeAnswer i e d).qualifiedLevel = s.qualifiedLevel := by
  unfold State.takeAnswer; simp only; split <;> simp
@[simp] theorem State.takeAnswer_syncRun (s : State) (i : Slot) (e : Exchange) (d : List Byte) : (s.takeAnswer i e d).syncRun = s.syncRun := by
  unfold State.takeAnswer; simp only; split <;> simp
@[simp] theorem State.takeAnswer_levelChange (s : State) (i : Slot) (e : Exchange) (d : List Byte) : (s.takeAnswer i e d).levelChange = s.levelChange := by
  unfold State.takeAnswer; simp only; split <;> simp
@[simp] theorem State.takeAnswer_schedule (s : State) (i : Slot) (e : Exchange) (d : List Byte) : (s.takeAnswer i e d).schedule = s.schedule := by
  unfold State.takeAnswer; simp only; split <;> simp
@[simp] theorem State.takeAnswer_advanceHeld (s : State) (i : Slot) (e : Exchange) (d : List Byte) : (s.takeAnswer i e d).advanceHeld = s.advanceHeld := by
  unfold State.takeAnswer; simp only; split <;> simp
@[simp] theorem State.takeAnswer_pending (s : State) (i : Slot) (e : Exchange) (d : List Byte) : (s.takeAnswer i e d).pending = s.pending := by
  unfold State.takeAnswer; simp only; split <;> simp

/-! ### takeDefer -/

@[simp] theorem State.takeDefer_headPort (s : State) (i : Slot) (e : Exchange) (h : Option Nat) : (s.takeDefer i e h).headPort = s.headPort := by
  unfold State.takeDefer; split <;> rfl
@[simp] theorem State.takeDefer_fieldPort (s : State) (i : Slot) (e : Exchange) (h : Option Nat) : (s.takeDefer i e h).fieldPort = s.fieldPort := by
  unfold State.takeDefer; split <;> rfl
@[simp] theorem State.takeDefer_intake (s : State) (i : Slot) (e : Exchange) (h : Option Nat) : (s.takeDefer i e h).intake = s.intake := by
  unfold State.takeDefer; split <;> rfl
@[simp] theorem State.takeDefer_params (s : State) (i : Slot) (e : Exchange) (h : Option Nat) : (s.takeDefer i e h).params = s.params := by
  unfold State.takeDefer; split <;> rfl
@[simp] theorem State.takeDefer_stagedLength (s : State) (i : Slot) (e : Exchange) (h : Option Nat) : (s.takeDefer i e h).stagedLength = s.stagedLength := by
  unfold State.takeDefer; split <;> rfl
@[simp] theorem State.takeDefer_flags (s : State) (i : Slot) (e : Exchange) (h : Option Nat) : (s.takeDefer i e h).flags = s.flags := by
  unfold State.takeDefer; split <;> rfl
@[simp] theorem State.takeDefer_flagEvent (s : State) (i : Slot) (e : Exchange) (h : Option Nat) : (s.takeDefer i e h).flagEvent = s.flagEvent := by
  unfold State.takeDefer; split <;> rfl
@[simp] theorem State.takeDefer_flagsOwed (s : State) (i : Slot) (e : Exchange) (h : Option Nat) : (s.takeDefer i e h).flagsOwed = s.flagsOwed := by
  unfold State.takeDefer; split <;> rfl
@[simp] theorem State.takeDefer_policies (s : State) (i : Slot) (e : Exchange) (h : Option Nat) : (s.takeDefer i e h).policies = s.policies := by
  unfold State.takeDefer; split <;> rfl
@[simp] theorem State.takeDefer_admissionCounter (s : State) (i : Slot) (e : Exchange) (h : Option Nat) : (s.takeDefer i e h).admissionCounter = s.admissionCounter := by
  unfold State.takeDefer; split <;> rfl
@[simp] theorem State.takeDefer_scheduleRun (s : State) (i : Slot) (e : Exchange) (h : Option Nat) : (s.takeDefer i e h).scheduleRun = s.scheduleRun := by
  unfold State.takeDefer; split <;> rfl
@[simp] theorem State.takeDefer_inFlight (s : State) (i : Slot) (e : Exchange) (h : Option Nat) : (s.takeDefer i e h).inFlight = s.inFlight := by
  unfold State.takeDefer; split <;> rfl
@[simp] theorem State.takeDefer_receipts (s : State) (i : Slot) (e : Exchange) (h : Option Nat) : (s.takeDefer i e h).receipts = s.receipts := by
  unfold State.takeDefer; split <;> rfl
@[simp] theorem State.takeDefer_store (s : State) (i : Slot) (e : Exchange) (h : Option Nat) : (s.takeDefer i e h).store = s.store := by
  unfold State.takeDefer; split <;> rfl
@[simp] theorem State.takeDefer_owedOrder (s : State) (i : Slot) (e : Exchange) (h : Option Nat) : (s.takeDefer i e h).owedOrder = s.owedOrder := by
  unfold State.takeDefer; split <;> rfl
@[simp] theorem State.takeDefer_now (s : State) (i : Slot) (e : Exchange) (h : Option Nat) : (s.takeDefer i e h).now = s.now := by
  unfold State.takeDefer; split <;> rfl
@[simp] theorem State.takeDefer_phase (s : State) (i : Slot) (e : Exchange) (h : Option Nat) : (s.takeDefer i e h).phase = s.phase := by
  unfold State.takeDefer; split <;> rfl
@[simp] theorem State.takeDefer_cycle (s : State) (i : Slot) (e : Exchange) (h : Option Nat) : (s.takeDefer i e h).cycle = s.cycle := by
  unfold State.takeDefer; split <;> rfl
@[simp] theorem State.takeDefer_startKind (s : State) (i : Slot) (e : Exchange) (h : Option Nat) : (s.takeDefer i e h).startKind = s.startKind := by
  unfold State.takeDefer; split <;> rfl
@[simp] theorem State.takeDefer_missRun (s : State) (i : Slot) (e : Exchange) (h : Option Nat) : (s.takeDefer i e h).missRun = s.missRun := by
  unfold State.takeDefer; split <;> rfl
@[simp] theorem State.takeDefer_lossRaised (s : State) (i : Slot) (e : Exchange) (h : Option Nat) : (s.takeDefer i e h).lossRaised = s.lossRaised := by
  unfold State.takeDefer; split <;> rfl
@[simp] theorem State.takeDefer_capture (s : State) (i : Slot) (e : Exchange) (h : Option Nat) : (s.takeDefer i e h).capture = s.capture := by
  unfold State.takeDefer; split <;> rfl
@[simp] theorem State.takeDefer_sampled (s : State) (i : Slot) (e : Exchange) (h : Option Nat) : (s.takeDefer i e h).sampled = s.sampled := by
  unfold State.takeDefer; split <;> rfl
@[simp] theorem State.takeDefer_qualifiedLevel (s : State) (i : Slot) (e : Exchange) (h : Option Nat) : (s.takeDefer i e h).qualifiedLevel = s.qualifiedLevel := by
  unfold State.takeDefer; split <;> rfl
@[simp] theorem State.takeDefer_syncRun (s : State) (i : Slot) (e : Exchange) (h : Option Nat) : (s.takeDefer i e h).syncRun = s.syncRun := by
  unfold State.takeDefer; split <;> rfl
@[simp] theorem State.takeDefer_levelChange (s : State) (i : Slot) (e : Exchange) (h : Option Nat) : (s.takeDefer i e h).levelChange = s.levelChange := by
  unfold State.takeDefer; split <;> rfl
@[simp] theorem State.takeDefer_schedule (s : State) (i : Slot) (e : Exchange) (h : Option Nat) : (s.takeDefer i e h).schedule = s.schedule := by
  unfold State.takeDefer; split <;> rfl
@[simp] theorem State.takeDefer_advanceHeld (s : State) (i : Slot) (e : Exchange) (h : Option Nat) : (s.takeDefer i e h).advanceHeld = s.advanceHeld := by
  unfold State.takeDefer; split <;> rfl
@[simp] theorem State.takeDefer_pending (s : State) (i : Slot) (e : Exchange) (h : Option Nat) : (s.takeDefer i e h).pending = s.pending := by
  unfold State.takeDefer; split <;> rfl

/-! ### answerArrives -/

@[simp] theorem State.answerArrives_headPort (s : State) (f : Frame) : (s.answerArrives f).headPort = s.headPort := by
  unfold State.answerArrives; split <;> simp
@[simp] theorem State.answerArrives_fieldPort (s : State) (f : Frame) : (s.answerArrives f).fieldPort = s.fieldPort := by
  unfold State.answerArrives; split <;> simp
@[simp] theorem State.answerArrives_intake (s : State) (f : Frame) : (s.answerArrives f).intake = s.intake := by
  unfold State.answerArrives; split <;> simp
@[simp] theorem State.answerArrives_params (s : State) (f : Frame) : (s.answerArrives f).params = s.params := by
  unfold State.answerArrives; split <;> simp
@[simp] theorem State.answerArrives_stagedLength (s : State) (f : Frame) : (s.answerArrives f).stagedLength = s.stagedLength := by
  unfold State.answerArrives; split <;> simp
@[simp] theorem State.answerArrives_flags (s : State) (f : Frame) : (s.answerArrives f).flags = s.flags := by
  unfold State.answerArrives; split <;> simp
@[simp] theorem State.answerArrives_flagEvent (s : State) (f : Frame) : (s.answerArrives f).flagEvent = s.flagEvent := by
  unfold State.answerArrives; split <;> simp
@[simp] theorem State.answerArrives_flagsOwed (s : State) (f : Frame) : (s.answerArrives f).flagsOwed = s.flagsOwed := by
  unfold State.answerArrives; split <;> simp
@[simp] theorem State.answerArrives_policies (s : State) (f : Frame) : (s.answerArrives f).policies = s.policies := by
  unfold State.answerArrives; split <;> simp
@[simp] theorem State.answerArrives_admissionCounter (s : State) (f : Frame) : (s.answerArrives f).admissionCounter = s.admissionCounter := by
  unfold State.answerArrives; split <;> simp
@[simp] theorem State.answerArrives_scheduleRun (s : State) (f : Frame) : (s.answerArrives f).scheduleRun = s.scheduleRun := by
  unfold State.answerArrives; split <;> simp
@[simp] theorem State.answerArrives_inFlight (s : State) (f : Frame) : (s.answerArrives f).inFlight = s.inFlight := by
  unfold State.answerArrives; split <;> simp
@[simp] theorem State.answerArrives_receipts (s : State) (f : Frame) : (s.answerArrives f).receipts = s.receipts := by
  unfold State.answerArrives; split <;> simp
@[simp] theorem State.answerArrives_store (s : State) (f : Frame) : (s.answerArrives f).store = s.store := by
  unfold State.answerArrives; split <;> simp
@[simp] theorem State.answerArrives_owedOrder (s : State) (f : Frame) : (s.answerArrives f).owedOrder = s.owedOrder := by
  unfold State.answerArrives; split <;> simp
@[simp] theorem State.answerArrives_now (s : State) (f : Frame) : (s.answerArrives f).now = s.now := by
  unfold State.answerArrives; split <;> simp
@[simp] theorem State.answerArrives_phase (s : State) (f : Frame) : (s.answerArrives f).phase = s.phase := by
  unfold State.answerArrives; split <;> simp
@[simp] theorem State.answerArrives_cycle (s : State) (f : Frame) : (s.answerArrives f).cycle = s.cycle := by
  unfold State.answerArrives; split <;> simp
@[simp] theorem State.answerArrives_startKind (s : State) (f : Frame) : (s.answerArrives f).startKind = s.startKind := by
  unfold State.answerArrives; split <;> simp
@[simp] theorem State.answerArrives_missRun (s : State) (f : Frame) : (s.answerArrives f).missRun = s.missRun := by
  unfold State.answerArrives; split <;> simp
@[simp] theorem State.answerArrives_lossRaised (s : State) (f : Frame) : (s.answerArrives f).lossRaised = s.lossRaised := by
  unfold State.answerArrives; split <;> simp
@[simp] theorem State.answerArrives_capture (s : State) (f : Frame) : (s.answerArrives f).capture = s.capture := by
  unfold State.answerArrives; split <;> simp
@[simp] theorem State.answerArrives_sampled (s : State) (f : Frame) : (s.answerArrives f).sampled = s.sampled := by
  unfold State.answerArrives; split <;> simp
@[simp] theorem State.answerArrives_qualifiedLevel (s : State) (f : Frame) : (s.answerArrives f).qualifiedLevel = s.qualifiedLevel := by
  unfold State.answerArrives; split <;> simp
@[simp] theorem State.answerArrives_syncRun (s : State) (f : Frame) : (s.answerArrives f).syncRun = s.syncRun := by
  unfold State.answerArrives; split <;> simp
@[simp] theorem State.answerArrives_levelChange (s : State) (f : Frame) : (s.answerArrives f).levelChange = s.levelChange := by
  unfold State.answerArrives; split <;> simp
@[simp] theorem State.answerArrives_schedule (s : State) (f : Frame) : (s.answerArrives f).schedule = s.schedule := by
  unfold State.answerArrives; split <;> simp
@[simp] theorem State.answerArrives_advanceHeld (s : State) (f : Frame) : (s.answerArrives f).advanceHeld = s.advanceHeld := by
  unfold State.answerArrives; split <;> simp
@[simp] theorem State.answerArrives_pending (s : State) (f : Frame) : (s.answerArrives f).pending = s.pending := by
  unfold State.answerArrives; split <;> simp

/-! ### deferArrives -/

@[simp] theorem State.deferArrives_headPort (s : State) (f : Frame) : (s.deferArrives f).headPort = s.headPort := by
  unfold State.deferArrives; split <;> simp
@[simp] theorem State.deferArrives_fieldPort (s : State) (f : Frame) : (s.deferArrives f).fieldPort = s.fieldPort := by
  unfold State.deferArrives; split <;> simp
@[simp] theorem State.deferArrives_intake (s : State) (f : Frame) : (s.deferArrives f).intake = s.intake := by
  unfold State.deferArrives; split <;> simp
@[simp] theorem State.deferArrives_params (s : State) (f : Frame) : (s.deferArrives f).params = s.params := by
  unfold State.deferArrives; split <;> simp
@[simp] theorem State.deferArrives_stagedLength (s : State) (f : Frame) : (s.deferArrives f).stagedLength = s.stagedLength := by
  unfold State.deferArrives; split <;> simp
@[simp] theorem State.deferArrives_flags (s : State) (f : Frame) : (s.deferArrives f).flags = s.flags := by
  unfold State.deferArrives; split <;> simp
@[simp] theorem State.deferArrives_flagEvent (s : State) (f : Frame) : (s.deferArrives f).flagEvent = s.flagEvent := by
  unfold State.deferArrives; split <;> simp
@[simp] theorem State.deferArrives_flagsOwed (s : State) (f : Frame) : (s.deferArrives f).flagsOwed = s.flagsOwed := by
  unfold State.deferArrives; split <;> simp
@[simp] theorem State.deferArrives_policies (s : State) (f : Frame) : (s.deferArrives f).policies = s.policies := by
  unfold State.deferArrives; split <;> simp
@[simp] theorem State.deferArrives_admissionCounter (s : State) (f : Frame) : (s.deferArrives f).admissionCounter = s.admissionCounter := by
  unfold State.deferArrives; split <;> simp
@[simp] theorem State.deferArrives_scheduleRun (s : State) (f : Frame) : (s.deferArrives f).scheduleRun = s.scheduleRun := by
  unfold State.deferArrives; split <;> simp
@[simp] theorem State.deferArrives_inFlight (s : State) (f : Frame) : (s.deferArrives f).inFlight = s.inFlight := by
  unfold State.deferArrives; split <;> simp
@[simp] theorem State.deferArrives_receipts (s : State) (f : Frame) : (s.deferArrives f).receipts = s.receipts := by
  unfold State.deferArrives; split <;> simp
@[simp] theorem State.deferArrives_store (s : State) (f : Frame) : (s.deferArrives f).store = s.store := by
  unfold State.deferArrives; split <;> simp
@[simp] theorem State.deferArrives_owedOrder (s : State) (f : Frame) : (s.deferArrives f).owedOrder = s.owedOrder := by
  unfold State.deferArrives; split <;> simp
@[simp] theorem State.deferArrives_now (s : State) (f : Frame) : (s.deferArrives f).now = s.now := by
  unfold State.deferArrives; split <;> simp
@[simp] theorem State.deferArrives_phase (s : State) (f : Frame) : (s.deferArrives f).phase = s.phase := by
  unfold State.deferArrives; split <;> simp
@[simp] theorem State.deferArrives_cycle (s : State) (f : Frame) : (s.deferArrives f).cycle = s.cycle := by
  unfold State.deferArrives; split <;> simp
@[simp] theorem State.deferArrives_startKind (s : State) (f : Frame) : (s.deferArrives f).startKind = s.startKind := by
  unfold State.deferArrives; split <;> simp
@[simp] theorem State.deferArrives_missRun (s : State) (f : Frame) : (s.deferArrives f).missRun = s.missRun := by
  unfold State.deferArrives; split <;> simp
@[simp] theorem State.deferArrives_lossRaised (s : State) (f : Frame) : (s.deferArrives f).lossRaised = s.lossRaised := by
  unfold State.deferArrives; split <;> simp
@[simp] theorem State.deferArrives_capture (s : State) (f : Frame) : (s.deferArrives f).capture = s.capture := by
  unfold State.deferArrives; split <;> simp
@[simp] theorem State.deferArrives_sampled (s : State) (f : Frame) : (s.deferArrives f).sampled = s.sampled := by
  unfold State.deferArrives; split <;> simp
@[simp] theorem State.deferArrives_qualifiedLevel (s : State) (f : Frame) : (s.deferArrives f).qualifiedLevel = s.qualifiedLevel := by
  unfold State.deferArrives; split <;> simp
@[simp] theorem State.deferArrives_syncRun (s : State) (f : Frame) : (s.deferArrives f).syncRun = s.syncRun := by
  unfold State.deferArrives; split <;> simp
@[simp] theorem State.deferArrives_levelChange (s : State) (f : Frame) : (s.deferArrives f).levelChange = s.levelChange := by
  unfold State.deferArrives; split <;> simp
@[simp] theorem State.deferArrives_schedule (s : State) (f : Frame) : (s.deferArrives f).schedule = s.schedule := by
  unfold State.deferArrives; split <;> simp
@[simp] theorem State.deferArrives_advanceHeld (s : State) (f : Frame) : (s.deferArrives f).advanceHeld = s.advanceHeld := by
  unfold State.deferArrives; split <;> simp
@[simp] theorem State.deferArrives_pending (s : State) (f : Frame) : (s.deferArrives f).pending = s.pending := by
  unfold State.deferArrives; split <;> simp

/-! ### releaseOnArrival -/

@[simp] theorem State.releaseOnArrival_headPort (s : State) (k : StoreIndex) (f : Frame) : (s.releaseOnArrival k f).headPort = s.headPort := by
  unfold State.releaseOnArrival; simp
@[simp] theorem State.releaseOnArrival_fieldPort (s : State) (k : StoreIndex) (f : Frame) : (s.releaseOnArrival k f).fieldPort = s.fieldPort := by
  unfold State.releaseOnArrival; simp
@[simp] theorem State.releaseOnArrival_intake (s : State) (k : StoreIndex) (f : Frame) : (s.releaseOnArrival k f).intake = s.intake := by
  unfold State.releaseOnArrival; simp
@[simp] theorem State.releaseOnArrival_params (s : State) (k : StoreIndex) (f : Frame) : (s.releaseOnArrival k f).params = s.params := by
  unfold State.releaseOnArrival; simp
@[simp] theorem State.releaseOnArrival_stagedLength (s : State) (k : StoreIndex) (f : Frame) : (s.releaseOnArrival k f).stagedLength = s.stagedLength := by
  unfold State.releaseOnArrival; simp
@[simp] theorem State.releaseOnArrival_flags (s : State) (k : StoreIndex) (f : Frame) : (s.releaseOnArrival k f).flags = s.flags := by
  unfold State.releaseOnArrival; simp
@[simp] theorem State.releaseOnArrival_flagEvent (s : State) (k : StoreIndex) (f : Frame) : (s.releaseOnArrival k f).flagEvent = s.flagEvent := by
  unfold State.releaseOnArrival; simp
@[simp] theorem State.releaseOnArrival_flagsOwed (s : State) (k : StoreIndex) (f : Frame) : (s.releaseOnArrival k f).flagsOwed = s.flagsOwed := by
  unfold State.releaseOnArrival; simp
@[simp] theorem State.releaseOnArrival_policies (s : State) (k : StoreIndex) (f : Frame) : (s.releaseOnArrival k f).policies = s.policies := by
  unfold State.releaseOnArrival; simp
@[simp] theorem State.releaseOnArrival_slots (s : State) (k : StoreIndex) (f : Frame) : (s.releaseOnArrival k f).slots = s.slots := by
  unfold State.releaseOnArrival; simp
@[simp] theorem State.releaseOnArrival_admissionCounter (s : State) (k : StoreIndex) (f : Frame) : (s.releaseOnArrival k f).admissionCounter = s.admissionCounter := by
  unfold State.releaseOnArrival; simp
@[simp] theorem State.releaseOnArrival_pendingOrder (s : State) (k : StoreIndex) (f : Frame) : (s.releaseOnArrival k f).pendingOrder = s.pendingOrder := by
  unfold State.releaseOnArrival; simp
@[simp] theorem State.releaseOnArrival_deferralList (s : State) (k : StoreIndex) (f : Frame) : (s.releaseOnArrival k f).deferralList = s.deferralList := by
  unfold State.releaseOnArrival; simp
@[simp] theorem State.releaseOnArrival_scheduleRun (s : State) (k : StoreIndex) (f : Frame) : (s.releaseOnArrival k f).scheduleRun = s.scheduleRun := by
  unfold State.releaseOnArrival; simp
@[simp] theorem State.releaseOnArrival_inFlight (s : State) (k : StoreIndex) (f : Frame) : (s.releaseOnArrival k f).inFlight = s.inFlight := by
  unfold State.releaseOnArrival; simp
@[simp] theorem State.releaseOnArrival_now (s : State) (k : StoreIndex) (f : Frame) : (s.releaseOnArrival k f).now = s.now := by
  unfold State.releaseOnArrival; simp
@[simp] theorem State.releaseOnArrival_phase (s : State) (k : StoreIndex) (f : Frame) : (s.releaseOnArrival k f).phase = s.phase := by
  unfold State.releaseOnArrival; simp
@[simp] theorem State.releaseOnArrival_cycle (s : State) (k : StoreIndex) (f : Frame) : (s.releaseOnArrival k f).cycle = s.cycle := by
  unfold State.releaseOnArrival; simp
@[simp] theorem State.releaseOnArrival_startKind (s : State) (k : StoreIndex) (f : Frame) : (s.releaseOnArrival k f).startKind = s.startKind := by
  unfold State.releaseOnArrival; simp
@[simp] theorem State.releaseOnArrival_missRun (s : State) (k : StoreIndex) (f : Frame) : (s.releaseOnArrival k f).missRun = s.missRun := by
  unfold State.releaseOnArrival; simp
@[simp] theorem State.releaseOnArrival_lossRaised (s : State) (k : StoreIndex) (f : Frame) : (s.releaseOnArrival k f).lossRaised = s.lossRaised := by
  unfold State.releaseOnArrival; simp
@[simp] theorem State.releaseOnArrival_capture (s : State) (k : StoreIndex) (f : Frame) : (s.releaseOnArrival k f).capture = s.capture := by
  unfold State.releaseOnArrival; simp
@[simp] theorem State.releaseOnArrival_sampled (s : State) (k : StoreIndex) (f : Frame) : (s.releaseOnArrival k f).sampled = s.sampled := by
  unfold State.releaseOnArrival; simp
@[simp] theorem State.releaseOnArrival_qualifiedLevel (s : State) (k : StoreIndex) (f : Frame) : (s.releaseOnArrival k f).qualifiedLevel = s.qualifiedLevel := by
  unfold State.releaseOnArrival; simp
@[simp] theorem State.releaseOnArrival_syncRun (s : State) (k : StoreIndex) (f : Frame) : (s.releaseOnArrival k f).syncRun = s.syncRun := by
  unfold State.releaseOnArrival; simp
@[simp] theorem State.releaseOnArrival_levelChange (s : State) (k : StoreIndex) (f : Frame) : (s.releaseOnArrival k f).levelChange = s.levelChange := by
  unfold State.releaseOnArrival; simp
@[simp] theorem State.releaseOnArrival_schedule (s : State) (k : StoreIndex) (f : Frame) : (s.releaseOnArrival k f).schedule = s.schedule := by
  unfold State.releaseOnArrival; simp
@[simp] theorem State.releaseOnArrival_advanceHeld (s : State) (k : StoreIndex) (f : Frame) : (s.releaseOnArrival k f).advanceHeld = s.advanceHeld := by
  unfold State.releaseOnArrival; simp
@[simp] theorem State.releaseOnArrival_pending (s : State) (k : StoreIndex) (f : Frame) : (s.releaseOnArrival k f).pending = s.pending := by
  unfold State.releaseOnArrival; simp

/-! ### parkOnArrival -/

@[simp] theorem State.parkOnArrival_headPort (s : State) (k : StoreIndex) (f : Frame) : (s.parkOnArrival k f).headPort = s.headPort := by
  unfold State.parkOnArrival; simp
@[simp] theorem State.parkOnArrival_fieldPort (s : State) (k : StoreIndex) (f : Frame) : (s.parkOnArrival k f).fieldPort = s.fieldPort := by
  unfold State.parkOnArrival; simp
@[simp] theorem State.parkOnArrival_intake (s : State) (k : StoreIndex) (f : Frame) : (s.parkOnArrival k f).intake = s.intake := by
  unfold State.parkOnArrival; simp
@[simp] theorem State.parkOnArrival_params (s : State) (k : StoreIndex) (f : Frame) : (s.parkOnArrival k f).params = s.params := by
  unfold State.parkOnArrival; simp
@[simp] theorem State.parkOnArrival_stagedLength (s : State) (k : StoreIndex) (f : Frame) : (s.parkOnArrival k f).stagedLength = s.stagedLength := by
  unfold State.parkOnArrival; simp
@[simp] theorem State.parkOnArrival_flags (s : State) (k : StoreIndex) (f : Frame) : (s.parkOnArrival k f).flags = s.flags := by
  unfold State.parkOnArrival; simp
@[simp] theorem State.parkOnArrival_flagEvent (s : State) (k : StoreIndex) (f : Frame) : (s.parkOnArrival k f).flagEvent = s.flagEvent := by
  unfold State.parkOnArrival; simp
@[simp] theorem State.parkOnArrival_flagsOwed (s : State) (k : StoreIndex) (f : Frame) : (s.parkOnArrival k f).flagsOwed = s.flagsOwed := by
  unfold State.parkOnArrival; simp
@[simp] theorem State.parkOnArrival_policies (s : State) (k : StoreIndex) (f : Frame) : (s.parkOnArrival k f).policies = s.policies := by
  unfold State.parkOnArrival; simp
@[simp] theorem State.parkOnArrival_slots (s : State) (k : StoreIndex) (f : Frame) : (s.parkOnArrival k f).slots = s.slots := by
  unfold State.parkOnArrival; simp
@[simp] theorem State.parkOnArrival_admissionCounter (s : State) (k : StoreIndex) (f : Frame) : (s.parkOnArrival k f).admissionCounter = s.admissionCounter := by
  unfold State.parkOnArrival; simp
@[simp] theorem State.parkOnArrival_pendingOrder (s : State) (k : StoreIndex) (f : Frame) : (s.parkOnArrival k f).pendingOrder = s.pendingOrder := by
  unfold State.parkOnArrival; simp
@[simp] theorem State.parkOnArrival_deferralList (s : State) (k : StoreIndex) (f : Frame) : (s.parkOnArrival k f).deferralList = s.deferralList := by
  unfold State.parkOnArrival; simp
@[simp] theorem State.parkOnArrival_scheduleRun (s : State) (k : StoreIndex) (f : Frame) : (s.parkOnArrival k f).scheduleRun = s.scheduleRun := by
  unfold State.parkOnArrival; simp
@[simp] theorem State.parkOnArrival_inFlight (s : State) (k : StoreIndex) (f : Frame) : (s.parkOnArrival k f).inFlight = s.inFlight := by
  unfold State.parkOnArrival; simp
@[simp] theorem State.parkOnArrival_now (s : State) (k : StoreIndex) (f : Frame) : (s.parkOnArrival k f).now = s.now := by
  unfold State.parkOnArrival; simp
@[simp] theorem State.parkOnArrival_phase (s : State) (k : StoreIndex) (f : Frame) : (s.parkOnArrival k f).phase = s.phase := by
  unfold State.parkOnArrival; simp
@[simp] theorem State.parkOnArrival_cycle (s : State) (k : StoreIndex) (f : Frame) : (s.parkOnArrival k f).cycle = s.cycle := by
  unfold State.parkOnArrival; simp
@[simp] theorem State.parkOnArrival_startKind (s : State) (k : StoreIndex) (f : Frame) : (s.parkOnArrival k f).startKind = s.startKind := by
  unfold State.parkOnArrival; simp
@[simp] theorem State.parkOnArrival_missRun (s : State) (k : StoreIndex) (f : Frame) : (s.parkOnArrival k f).missRun = s.missRun := by
  unfold State.parkOnArrival; simp
@[simp] theorem State.parkOnArrival_lossRaised (s : State) (k : StoreIndex) (f : Frame) : (s.parkOnArrival k f).lossRaised = s.lossRaised := by
  unfold State.parkOnArrival; simp
@[simp] theorem State.parkOnArrival_capture (s : State) (k : StoreIndex) (f : Frame) : (s.parkOnArrival k f).capture = s.capture := by
  unfold State.parkOnArrival; simp
@[simp] theorem State.parkOnArrival_sampled (s : State) (k : StoreIndex) (f : Frame) : (s.parkOnArrival k f).sampled = s.sampled := by
  unfold State.parkOnArrival; simp
@[simp] theorem State.parkOnArrival_qualifiedLevel (s : State) (k : StoreIndex) (f : Frame) : (s.parkOnArrival k f).qualifiedLevel = s.qualifiedLevel := by
  unfold State.parkOnArrival; simp
@[simp] theorem State.parkOnArrival_syncRun (s : State) (k : StoreIndex) (f : Frame) : (s.parkOnArrival k f).syncRun = s.syncRun := by
  unfold State.parkOnArrival; simp
@[simp] theorem State.parkOnArrival_levelChange (s : State) (k : StoreIndex) (f : Frame) : (s.parkOnArrival k f).levelChange = s.levelChange := by
  unfold State.parkOnArrival; simp
@[simp] theorem State.parkOnArrival_schedule (s : State) (k : StoreIndex) (f : Frame) : (s.parkOnArrival k f).schedule = s.schedule := by
  unfold State.parkOnArrival; simp
@[simp] theorem State.parkOnArrival_delivery (s : State) (k : StoreIndex) (f : Frame) : (s.parkOnArrival k f).delivery = s.delivery := by
  unfold State.parkOnArrival; simp
@[simp] theorem State.parkOnArrival_advanceHeld (s : State) (k : StoreIndex) (f : Frame) : (s.parkOnArrival k f).advanceHeld = s.advanceHeld := by
  unfold State.parkOnArrival; simp
@[simp] theorem State.parkOnArrival_pending (s : State) (k : StoreIndex) (f : Frame) : (s.parkOnArrival k f).pending = s.pending := by
  unfold State.parkOnArrival; simp

/-! ### reportArrives -/

@[simp] theorem State.reportArrives_headPort (s : State) (f : Frame) : (s.reportArrives f).headPort = s.headPort := by
  unfold State.reportArrives; repeat' split
  all_goals simp
@[simp] theorem State.reportArrives_fieldPort (s : State) (f : Frame) : (s.reportArrives f).fieldPort = s.fieldPort := by
  unfold State.reportArrives; repeat' split
  all_goals simp
@[simp] theorem State.reportArrives_intake (s : State) (f : Frame) : (s.reportArrives f).intake = s.intake := by
  unfold State.reportArrives; repeat' split
  all_goals simp
@[simp] theorem State.reportArrives_params (s : State) (f : Frame) : (s.reportArrives f).params = s.params := by
  unfold State.reportArrives; repeat' split
  all_goals simp
@[simp] theorem State.reportArrives_stagedLength (s : State) (f : Frame) : (s.reportArrives f).stagedLength = s.stagedLength := by
  unfold State.reportArrives; repeat' split
  all_goals simp
@[simp] theorem State.reportArrives_policies (s : State) (f : Frame) : (s.reportArrives f).policies = s.policies := by
  unfold State.reportArrives; repeat' split
  all_goals simp
@[simp] theorem State.reportArrives_slots (s : State) (f : Frame) : (s.reportArrives f).slots = s.slots := by
  unfold State.reportArrives; repeat' split
  all_goals simp
@[simp] theorem State.reportArrives_admissionCounter (s : State) (f : Frame) : (s.reportArrives f).admissionCounter = s.admissionCounter := by
  unfold State.reportArrives; repeat' split
  all_goals simp
@[simp] theorem State.reportArrives_pendingOrder (s : State) (f : Frame) : (s.reportArrives f).pendingOrder = s.pendingOrder := by
  unfold State.reportArrives; repeat' split
  all_goals simp
@[simp] theorem State.reportArrives_deferralList (s : State) (f : Frame) : (s.reportArrives f).deferralList = s.deferralList := by
  unfold State.reportArrives; repeat' split
  all_goals simp
@[simp] theorem State.reportArrives_scheduleRun (s : State) (f : Frame) : (s.reportArrives f).scheduleRun = s.scheduleRun := by
  unfold State.reportArrives; repeat' split
  all_goals simp
@[simp] theorem State.reportArrives_inFlight (s : State) (f : Frame) : (s.reportArrives f).inFlight = s.inFlight := by
  unfold State.reportArrives; repeat' split
  all_goals simp
@[simp] theorem State.reportArrives_now (s : State) (f : Frame) : (s.reportArrives f).now = s.now := by
  unfold State.reportArrives; repeat' split
  all_goals simp
@[simp] theorem State.reportArrives_phase (s : State) (f : Frame) : (s.reportArrives f).phase = s.phase := by
  unfold State.reportArrives; repeat' split
  all_goals simp
@[simp] theorem State.reportArrives_cycle (s : State) (f : Frame) : (s.reportArrives f).cycle = s.cycle := by
  unfold State.reportArrives; repeat' split
  all_goals simp
@[simp] theorem State.reportArrives_startKind (s : State) (f : Frame) : (s.reportArrives f).startKind = s.startKind := by
  unfold State.reportArrives; repeat' split
  all_goals simp
@[simp] theorem State.reportArrives_missRun (s : State) (f : Frame) : (s.reportArrives f).missRun = s.missRun := by
  unfold State.reportArrives; repeat' split
  all_goals simp
@[simp] theorem State.reportArrives_lossRaised (s : State) (f : Frame) : (s.reportArrives f).lossRaised = s.lossRaised := by
  unfold State.reportArrives; repeat' split
  all_goals simp
@[simp] theorem State.reportArrives_capture (s : State) (f : Frame) : (s.reportArrives f).capture = s.capture := by
  unfold State.reportArrives; repeat' split
  all_goals simp
@[simp] theorem State.reportArrives_sampled (s : State) (f : Frame) : (s.reportArrives f).sampled = s.sampled := by
  unfold State.reportArrives; repeat' split
  all_goals simp
@[simp] theorem State.reportArrives_qualifiedLevel (s : State) (f : Frame) : (s.reportArrives f).qualifiedLevel = s.qualifiedLevel := by
  unfold State.reportArrives; repeat' split
  all_goals simp
@[simp] theorem State.reportArrives_syncRun (s : State) (f : Frame) : (s.reportArrives f).syncRun = s.syncRun := by
  unfold State.reportArrives; repeat' split
  all_goals simp
@[simp] theorem State.reportArrives_levelChange (s : State) (f : Frame) : (s.reportArrives f).levelChange = s.levelChange := by
  unfold State.reportArrives; repeat' split
  all_goals simp
@[simp] theorem State.reportArrives_schedule (s : State) (f : Frame) : (s.reportArrives f).schedule = s.schedule := by
  unfold State.reportArrives; repeat' split
  all_goals simp
@[simp] theorem State.reportArrives_advanceHeld (s : State) (f : Frame) : (s.reportArrives f).advanceHeld = s.advanceHeld := by
  unfold State.reportArrives; repeat' split
  all_goals simp
@[simp] theorem State.reportArrives_pending (s : State) (f : Frame) : (s.reportArrives f).pending = s.pending := by
  unfold State.reportArrives; repeat' split
  all_goals simp

/-! ### grant -/

@[simp] theorem State.grant_headPort (s : State) (n k : Nat) : (s.grant n k).headPort = s.headPort := rfl
@[simp] theorem State.grant_fieldPort (s : State) (n k : Nat) : (s.grant n k).fieldPort = s.fieldPort := rfl
@[simp] theorem State.grant_intake (s : State) (n k : Nat) : (s.grant n k).intake = s.intake := rfl
@[simp] theorem State.grant_params (s : State) (n k : Nat) : (s.grant n k).params = s.params := rfl
@[simp] theorem State.grant_stagedLength (s : State) (n k : Nat) : (s.grant n k).stagedLength = s.stagedLength := rfl
@[simp] theorem State.grant_flags (s : State) (n k : Nat) : (s.grant n k).flags = s.flags := rfl
@[simp] theorem State.grant_flagEvent (s : State) (n k : Nat) : (s.grant n k).flagEvent = s.flagEvent := rfl
@[simp] theorem State.grant_flagsOwed (s : State) (n k : Nat) : (s.grant n k).flagsOwed = s.flagsOwed := rfl
@[simp] theorem State.grant_counters (s : State) (n k : Nat) : (s.grant n k).counters = s.counters := rfl
@[simp] theorem State.grant_policies (s : State) (n k : Nat) : (s.grant n k).policies = s.policies := rfl
@[simp] theorem State.grant_slots (s : State) (n k : Nat) : (s.grant n k).slots = s.slots := rfl
@[simp] theorem State.grant_admissionCounter (s : State) (n k : Nat) : (s.grant n k).admissionCounter = s.admissionCounter := rfl
@[simp] theorem State.grant_pendingOrder (s : State) (n k : Nat) : (s.grant n k).pendingOrder = s.pendingOrder := rfl
@[simp] theorem State.grant_deferralList (s : State) (n k : Nat) : (s.grant n k).deferralList = s.deferralList := rfl
@[simp] theorem State.grant_scheduleRun (s : State) (n k : Nat) : (s.grant n k).scheduleRun = s.scheduleRun := rfl
@[simp] theorem State.grant_inFlight (s : State) (n k : Nat) : (s.grant n k).inFlight = s.inFlight := rfl
@[simp] theorem State.grant_receipts (s : State) (n k : Nat) : (s.grant n k).receipts = s.receipts := rfl
@[simp] theorem State.grant_now (s : State) (n k : Nat) : (s.grant n k).now = s.now := rfl
@[simp] theorem State.grant_phase (s : State) (n k : Nat) : (s.grant n k).phase = s.phase := rfl
@[simp] theorem State.grant_cycle (s : State) (n k : Nat) : (s.grant n k).cycle = s.cycle := rfl
@[simp] theorem State.grant_startKind (s : State) (n k : Nat) : (s.grant n k).startKind = s.startKind := rfl
@[simp] theorem State.grant_missRun (s : State) (n k : Nat) : (s.grant n k).missRun = s.missRun := rfl
@[simp] theorem State.grant_lossRaised (s : State) (n k : Nat) : (s.grant n k).lossRaised = s.lossRaised := rfl
@[simp] theorem State.grant_capture (s : State) (n k : Nat) : (s.grant n k).capture = s.capture := rfl
@[simp] theorem State.grant_sampled (s : State) (n k : Nat) : (s.grant n k).sampled = s.sampled := rfl
@[simp] theorem State.grant_qualifiedLevel (s : State) (n k : Nat) : (s.grant n k).qualifiedLevel = s.qualifiedLevel := rfl
@[simp] theorem State.grant_syncRun (s : State) (n k : Nat) : (s.grant n k).syncRun = s.syncRun := rfl
@[simp] theorem State.grant_levelChange (s : State) (n k : Nat) : (s.grant n k).levelChange = s.levelChange := rfl
@[simp] theorem State.grant_schedule (s : State) (n k : Nat) : (s.grant n k).schedule = s.schedule := rfl
@[simp] theorem State.grant_advanceHeld (s : State) (n k : Nat) : (s.grant n k).advanceHeld = s.advanceHeld := rfl
@[simp] theorem State.grant_pending (s : State) (n k : Nat) : (s.grant n k).pending = s.pending := rfl

/-! ### discard -/

@[simp] theorem State.discard_headPort (s : State) (n : Nat) : (s.discard n).headPort = s.headPort := rfl
@[simp] theorem State.discard_fieldPort (s : State) (n : Nat) : (s.discard n).fieldPort = s.fieldPort := rfl
@[simp] theorem State.discard_intake (s : State) (n : Nat) : (s.discard n).intake = s.intake := rfl
@[simp] theorem State.discard_params (s : State) (n : Nat) : (s.discard n).params = s.params := rfl
@[simp] theorem State.discard_stagedLength (s : State) (n : Nat) : (s.discard n).stagedLength = s.stagedLength := rfl
@[simp] theorem State.discard_flags (s : State) (n : Nat) : (s.discard n).flags = s.flags := rfl
@[simp] theorem State.discard_flagEvent (s : State) (n : Nat) : (s.discard n).flagEvent = s.flagEvent := rfl
@[simp] theorem State.discard_flagsOwed (s : State) (n : Nat) : (s.discard n).flagsOwed = s.flagsOwed := rfl
@[simp] theorem State.discard_counters (s : State) (n : Nat) : (s.discard n).counters = s.counters := rfl
@[simp] theorem State.discard_policies (s : State) (n : Nat) : (s.discard n).policies = s.policies := rfl
@[simp] theorem State.discard_slots (s : State) (n : Nat) : (s.discard n).slots = s.slots := rfl
@[simp] theorem State.discard_admissionCounter (s : State) (n : Nat) : (s.discard n).admissionCounter = s.admissionCounter := rfl
@[simp] theorem State.discard_pendingOrder (s : State) (n : Nat) : (s.discard n).pendingOrder = s.pendingOrder := rfl
@[simp] theorem State.discard_deferralList (s : State) (n : Nat) : (s.discard n).deferralList = s.deferralList := rfl
@[simp] theorem State.discard_scheduleRun (s : State) (n : Nat) : (s.discard n).scheduleRun = s.scheduleRun := rfl
@[simp] theorem State.discard_inFlight (s : State) (n : Nat) : (s.discard n).inFlight = s.inFlight := rfl
@[simp] theorem State.discard_receipts (s : State) (n : Nat) : (s.discard n).receipts = s.receipts := rfl
@[simp] theorem State.discard_now (s : State) (n : Nat) : (s.discard n).now = s.now := rfl
@[simp] theorem State.discard_phase (s : State) (n : Nat) : (s.discard n).phase = s.phase := rfl
@[simp] theorem State.discard_cycle (s : State) (n : Nat) : (s.discard n).cycle = s.cycle := rfl
@[simp] theorem State.discard_startKind (s : State) (n : Nat) : (s.discard n).startKind = s.startKind := rfl
@[simp] theorem State.discard_missRun (s : State) (n : Nat) : (s.discard n).missRun = s.missRun := rfl
@[simp] theorem State.discard_lossRaised (s : State) (n : Nat) : (s.discard n).lossRaised = s.lossRaised := rfl
@[simp] theorem State.discard_capture (s : State) (n : Nat) : (s.discard n).capture = s.capture := rfl
@[simp] theorem State.discard_sampled (s : State) (n : Nat) : (s.discard n).sampled = s.sampled := rfl
@[simp] theorem State.discard_qualifiedLevel (s : State) (n : Nat) : (s.discard n).qualifiedLevel = s.qualifiedLevel := rfl
@[simp] theorem State.discard_syncRun (s : State) (n : Nat) : (s.discard n).syncRun = s.syncRun := rfl
@[simp] theorem State.discard_levelChange (s : State) (n : Nat) : (s.discard n).levelChange = s.levelChange := rfl
@[simp] theorem State.discard_schedule (s : State) (n : Nat) : (s.discard n).schedule = s.schedule := rfl
@[simp] theorem State.discard_delivery (s : State) (n : Nat) : (s.discard n).delivery = s.delivery := rfl
@[simp] theorem State.discard_advanceHeld (s : State) (n : Nat) : (s.discard n).advanceHeld = s.advanceHeld := rfl
@[simp] theorem State.discard_pending (s : State) (n : Nat) : (s.discard n).pending = s.pending := rfl

/-! ### offer -/

@[simp] theorem State.offer_headPort (s : State) (f : Frame) : (s.offer f).headPort = s.headPort := by
  unfold State.offer; split <;> rfl
@[simp] theorem State.offer_fieldPort (s : State) (f : Frame) : (s.offer f).fieldPort = s.fieldPort := by
  unfold State.offer; split <;> rfl
@[simp] theorem State.offer_params (s : State) (f : Frame) : (s.offer f).params = s.params := by
  unfold State.offer; split <;> rfl
@[simp] theorem State.offer_stagedLength (s : State) (f : Frame) : (s.offer f).stagedLength = s.stagedLength := by
  unfold State.offer; split <;> rfl
@[simp] theorem State.offer_policies (s : State) (f : Frame) : (s.offer f).policies = s.policies := by
  unfold State.offer; split <;> rfl
@[simp] theorem State.offer_slots (s : State) (f : Frame) : (s.offer f).slots = s.slots := by
  unfold State.offer; split <;> rfl
@[simp] theorem State.offer_admissionCounter (s : State) (f : Frame) : (s.offer f).admissionCounter = s.admissionCounter := by
  unfold State.offer; split <;> rfl
@[simp] theorem State.offer_pendingOrder (s : State) (f : Frame) : (s.offer f).pendingOrder = s.pendingOrder := by
  unfold State.offer; split <;> rfl
@[simp] theorem State.offer_deferralList (s : State) (f : Frame) : (s.offer f).deferralList = s.deferralList := by
  unfold State.offer; split <;> rfl
@[simp] theorem State.offer_nodes (s : State) (f : Frame) : (s.offer f).nodes = s.nodes := by
  unfold State.offer; split <;> rfl
@[simp] theorem State.offer_scheduleRun (s : State) (f : Frame) : (s.offer f).scheduleRun = s.scheduleRun := by
  unfold State.offer; split <;> rfl
@[simp] theorem State.offer_inFlight (s : State) (f : Frame) : (s.offer f).inFlight = s.inFlight := by
  unfold State.offer; split <;> rfl
@[simp] theorem State.offer_receipts (s : State) (f : Frame) : (s.offer f).receipts = s.receipts := by
  unfold State.offer; split <;> rfl
@[simp] theorem State.offer_store (s : State) (f : Frame) : (s.offer f).store = s.store := by
  unfold State.offer; split <;> rfl
@[simp] theorem State.offer_owedOrder (s : State) (f : Frame) : (s.offer f).owedOrder = s.owedOrder := by
  unfold State.offer; split <;> rfl
@[simp] theorem State.offer_now (s : State) (f : Frame) : (s.offer f).now = s.now := by
  unfold State.offer; split <;> rfl
@[simp] theorem State.offer_phase (s : State) (f : Frame) : (s.offer f).phase = s.phase := by
  unfold State.offer; split <;> rfl
@[simp] theorem State.offer_cycle (s : State) (f : Frame) : (s.offer f).cycle = s.cycle := by
  unfold State.offer; split <;> rfl
@[simp] theorem State.offer_startKind (s : State) (f : Frame) : (s.offer f).startKind = s.startKind := by
  unfold State.offer; split <;> rfl
@[simp] theorem State.offer_missRun (s : State) (f : Frame) : (s.offer f).missRun = s.missRun := by
  unfold State.offer; split <;> rfl
@[simp] theorem State.offer_lossRaised (s : State) (f : Frame) : (s.offer f).lossRaised = s.lossRaised := by
  unfold State.offer; split <;> rfl
@[simp] theorem State.offer_capture (s : State) (f : Frame) : (s.offer f).capture = s.capture := by
  unfold State.offer; split <;> rfl
@[simp] theorem State.offer_sampled (s : State) (f : Frame) : (s.offer f).sampled = s.sampled := by
  unfold State.offer; split <;> rfl
@[simp] theorem State.offer_qualifiedLevel (s : State) (f : Frame) : (s.offer f).qualifiedLevel = s.qualifiedLevel := by
  unfold State.offer; split <;> rfl
@[simp] theorem State.offer_syncRun (s : State) (f : Frame) : (s.offer f).syncRun = s.syncRun := by
  unfold State.offer; split <;> rfl
@[simp] theorem State.offer_levelChange (s : State) (f : Frame) : (s.offer f).levelChange = s.levelChange := by
  unfold State.offer; split <;> rfl
@[simp] theorem State.offer_schedule (s : State) (f : Frame) : (s.offer f).schedule = s.schedule := by
  unfold State.offer; split <;> rfl
@[simp] theorem State.offer_delivery (s : State) (f : Frame) : (s.offer f).delivery = s.delivery := by
  unfold State.offer; split <;> rfl
@[simp] theorem State.offer_advanceHeld (s : State) (f : Frame) : (s.offer f).advanceHeld = s.advanceHeld := by
  unfold State.offer; split <;> rfl
@[simp] theorem State.offer_pending (s : State) (f : Frame) : (s.offer f).pending = s.pending := by
  unfold State.offer; split <;> rfl

/-! ### handOn -/

@[simp] theorem State.handOn_headPort (s : State) (f : Frame) : (s.handOn f).headPort = s.headPort := by
  unfold State.handOn; split <;> simp
@[simp] theorem State.handOn_fieldPort (s : State) (f : Frame) : (s.handOn f).fieldPort = s.fieldPort := by
  unfold State.handOn; split <;> simp
@[simp] theorem State.handOn_params (s : State) (f : Frame) : (s.handOn f).params = s.params := by
  unfold State.handOn; split <;> simp
@[simp] theorem State.handOn_stagedLength (s : State) (f : Frame) : (s.handOn f).stagedLength = s.stagedLength := by
  unfold State.handOn; split <;> simp
@[simp] theorem State.handOn_policies (s : State) (f : Frame) : (s.handOn f).policies = s.policies := by
  unfold State.handOn; split <;> simp
@[simp] theorem State.handOn_admissionCounter (s : State) (f : Frame) : (s.handOn f).admissionCounter = s.admissionCounter := by
  unfold State.handOn; split <;> simp
@[simp] theorem State.handOn_scheduleRun (s : State) (f : Frame) : (s.handOn f).scheduleRun = s.scheduleRun := by
  unfold State.handOn; split <;> simp
@[simp] theorem State.handOn_inFlight (s : State) (f : Frame) : (s.handOn f).inFlight = s.inFlight := by
  unfold State.handOn; split <;> simp
@[simp] theorem State.handOn_now (s : State) (f : Frame) : (s.handOn f).now = s.now := by
  unfold State.handOn; split <;> simp
@[simp] theorem State.handOn_phase (s : State) (f : Frame) : (s.handOn f).phase = s.phase := by
  unfold State.handOn; split <;> simp
@[simp] theorem State.handOn_cycle (s : State) (f : Frame) : (s.handOn f).cycle = s.cycle := by
  unfold State.handOn; split <;> simp
@[simp] theorem State.handOn_startKind (s : State) (f : Frame) : (s.handOn f).startKind = s.startKind := by
  unfold State.handOn; split <;> simp
@[simp] theorem State.handOn_missRun (s : State) (f : Frame) : (s.handOn f).missRun = s.missRun := by
  unfold State.handOn; split <;> simp
@[simp] theorem State.handOn_lossRaised (s : State) (f : Frame) : (s.handOn f).lossRaised = s.lossRaised := by
  unfold State.handOn; split <;> simp
@[simp] theorem State.handOn_capture (s : State) (f : Frame) : (s.handOn f).capture = s.capture := by
  unfold State.handOn; split <;> simp
@[simp] theorem State.handOn_sampled (s : State) (f : Frame) : (s.handOn f).sampled = s.sampled := by
  unfold State.handOn; split <;> simp
@[simp] theorem State.handOn_qualifiedLevel (s : State) (f : Frame) : (s.handOn f).qualifiedLevel = s.qualifiedLevel := by
  unfold State.handOn; split <;> simp
@[simp] theorem State.handOn_syncRun (s : State) (f : Frame) : (s.handOn f).syncRun = s.syncRun := by
  unfold State.handOn; split <;> simp
@[simp] theorem State.handOn_levelChange (s : State) (f : Frame) : (s.handOn f).levelChange = s.levelChange := by
  unfold State.handOn; split <;> simp
@[simp] theorem State.handOn_schedule (s : State) (f : Frame) : (s.handOn f).schedule = s.schedule := by
  unfold State.handOn; split <;> simp
@[simp] theorem State.handOn_advanceHeld (s : State) (f : Frame) : (s.handOn f).advanceHeld = s.advanceHeld := by
  unfold State.handOn; split <;> simp
@[simp] theorem State.handOn_pending (s : State) (f : Frame) : (s.handOn f).pending = s.pending := by
  unfold State.handOn; split <;> simp

/-! ### setPort -/

@[simp] theorem State.setPort_intake (s : State) (l : Line) (p : Port) : (s.setPort l p).intake = s.intake := by
  cases l <;> rfl
@[simp] theorem State.setPort_params (s : State) (l : Line) (p : Port) : (s.setPort l p).params = s.params := by
  cases l <;> rfl
@[simp] theorem State.setPort_stagedLength (s : State) (l : Line) (p : Port) : (s.setPort l p).stagedLength = s.stagedLength := by
  cases l <;> rfl
@[simp] theorem State.setPort_flags (s : State) (l : Line) (p : Port) : (s.setPort l p).flags = s.flags := by
  cases l <;> rfl
@[simp] theorem State.setPort_flagEvent (s : State) (l : Line) (p : Port) : (s.setPort l p).flagEvent = s.flagEvent := by
  cases l <;> rfl
@[simp] theorem State.setPort_flagsOwed (s : State) (l : Line) (p : Port) : (s.setPort l p).flagsOwed = s.flagsOwed := by
  cases l <;> rfl
@[simp] theorem State.setPort_counters (s : State) (l : Line) (p : Port) : (s.setPort l p).counters = s.counters := by
  cases l <;> rfl
@[simp] theorem State.setPort_policies (s : State) (l : Line) (p : Port) : (s.setPort l p).policies = s.policies := by
  cases l <;> rfl
@[simp] theorem State.setPort_slots (s : State) (l : Line) (p : Port) : (s.setPort l p).slots = s.slots := by
  cases l <;> rfl
@[simp] theorem State.setPort_admissionCounter (s : State) (l : Line) (p : Port) : (s.setPort l p).admissionCounter = s.admissionCounter := by
  cases l <;> rfl
@[simp] theorem State.setPort_pendingOrder (s : State) (l : Line) (p : Port) : (s.setPort l p).pendingOrder = s.pendingOrder := by
  cases l <;> rfl
@[simp] theorem State.setPort_deferralList (s : State) (l : Line) (p : Port) : (s.setPort l p).deferralList = s.deferralList := by
  cases l <;> rfl
@[simp] theorem State.setPort_nodes (s : State) (l : Line) (p : Port) : (s.setPort l p).nodes = s.nodes := by
  cases l <;> rfl
@[simp] theorem State.setPort_scheduleRun (s : State) (l : Line) (p : Port) : (s.setPort l p).scheduleRun = s.scheduleRun := by
  cases l <;> rfl
@[simp] theorem State.setPort_inFlight (s : State) (l : Line) (p : Port) : (s.setPort l p).inFlight = s.inFlight := by
  cases l <;> rfl
@[simp] theorem State.setPort_receipts (s : State) (l : Line) (p : Port) : (s.setPort l p).receipts = s.receipts := by
  cases l <;> rfl
@[simp] theorem State.setPort_store (s : State) (l : Line) (p : Port) : (s.setPort l p).store = s.store := by
  cases l <;> rfl
@[simp] theorem State.setPort_owedOrder (s : State) (l : Line) (p : Port) : (s.setPort l p).owedOrder = s.owedOrder := by
  cases l <;> rfl
@[simp] theorem State.setPort_now (s : State) (l : Line) (p : Port) : (s.setPort l p).now = s.now := by
  cases l <;> rfl
@[simp] theorem State.setPort_phase (s : State) (l : Line) (p : Port) : (s.setPort l p).phase = s.phase := by
  cases l <;> rfl
@[simp] theorem State.setPort_cycle (s : State) (l : Line) (p : Port) : (s.setPort l p).cycle = s.cycle := by
  cases l <;> rfl
@[simp] theorem State.setPort_startKind (s : State) (l : Line) (p : Port) : (s.setPort l p).startKind = s.startKind := by
  cases l <;> rfl
@[simp] theorem State.setPort_missRun (s : State) (l : Line) (p : Port) : (s.setPort l p).missRun = s.missRun := by
  cases l <;> rfl
@[simp] theorem State.setPort_lossRaised (s : State) (l : Line) (p : Port) : (s.setPort l p).lossRaised = s.lossRaised := by
  cases l <;> rfl
@[simp] theorem State.setPort_capture (s : State) (l : Line) (p : Port) : (s.setPort l p).capture = s.capture := by
  cases l <;> rfl
@[simp] theorem State.setPort_sampled (s : State) (l : Line) (p : Port) : (s.setPort l p).sampled = s.sampled := by
  cases l <;> rfl
@[simp] theorem State.setPort_qualifiedLevel (s : State) (l : Line) (p : Port) : (s.setPort l p).qualifiedLevel = s.qualifiedLevel := by
  cases l <;> rfl
@[simp] theorem State.setPort_syncRun (s : State) (l : Line) (p : Port) : (s.setPort l p).syncRun = s.syncRun := by
  cases l <;> rfl
@[simp] theorem State.setPort_levelChange (s : State) (l : Line) (p : Port) : (s.setPort l p).levelChange = s.levelChange := by
  cases l <;> rfl
@[simp] theorem State.setPort_schedule (s : State) (l : Line) (p : Port) : (s.setPort l p).schedule = s.schedule := by
  cases l <;> rfl
@[simp] theorem State.setPort_delivery (s : State) (l : Line) (p : Port) : (s.setPort l p).delivery = s.delivery := by
  cases l <;> rfl
@[simp] theorem State.setPort_advanceHeld (s : State) (l : Line) (p : Port) : (s.setPort l p).advanceHeld = s.advanceHeld := by
  cases l <;> rfl
@[simp] theorem State.setPort_pending (s : State) (l : Line) (p : Port) : (s.setPort l p).pending = s.pending := by
  cases l <;> rfl

/-! ### endReceive -/

@[simp] theorem State.endReceive_intake (s : State) (l : Line) : (s.endReceive l).intake = s.intake := by
  simp [State.endReceive]
@[simp] theorem State.endReceive_params (s : State) (l : Line) : (s.endReceive l).params = s.params := by
  simp [State.endReceive]
@[simp] theorem State.endReceive_stagedLength (s : State) (l : Line) : (s.endReceive l).stagedLength = s.stagedLength := by
  simp [State.endReceive]
@[simp] theorem State.endReceive_flags (s : State) (l : Line) : (s.endReceive l).flags = s.flags := by
  simp [State.endReceive]
@[simp] theorem State.endReceive_flagEvent (s : State) (l : Line) : (s.endReceive l).flagEvent = s.flagEvent := by
  simp [State.endReceive]
@[simp] theorem State.endReceive_flagsOwed (s : State) (l : Line) : (s.endReceive l).flagsOwed = s.flagsOwed := by
  simp [State.endReceive]
@[simp] theorem State.endReceive_counters (s : State) (l : Line) : (s.endReceive l).counters = s.counters := by
  simp [State.endReceive]
@[simp] theorem State.endReceive_policies (s : State) (l : Line) : (s.endReceive l).policies = s.policies := by
  simp [State.endReceive]
@[simp] theorem State.endReceive_slots (s : State) (l : Line) : (s.endReceive l).slots = s.slots := by
  simp [State.endReceive]
@[simp] theorem State.endReceive_admissionCounter (s : State) (l : Line) : (s.endReceive l).admissionCounter = s.admissionCounter := by
  simp [State.endReceive]
@[simp] theorem State.endReceive_pendingOrder (s : State) (l : Line) : (s.endReceive l).pendingOrder = s.pendingOrder := by
  simp [State.endReceive]
@[simp] theorem State.endReceive_deferralList (s : State) (l : Line) : (s.endReceive l).deferralList = s.deferralList := by
  simp [State.endReceive]
@[simp] theorem State.endReceive_nodes (s : State) (l : Line) : (s.endReceive l).nodes = s.nodes := by
  simp [State.endReceive]
@[simp] theorem State.endReceive_scheduleRun (s : State) (l : Line) : (s.endReceive l).scheduleRun = s.scheduleRun := by
  simp [State.endReceive]
@[simp] theorem State.endReceive_inFlight (s : State) (l : Line) : (s.endReceive l).inFlight = s.inFlight := by
  simp [State.endReceive]
@[simp] theorem State.endReceive_receipts (s : State) (l : Line) : (s.endReceive l).receipts = s.receipts := by
  simp [State.endReceive]
@[simp] theorem State.endReceive_store (s : State) (l : Line) : (s.endReceive l).store = s.store := by
  simp [State.endReceive]
@[simp] theorem State.endReceive_owedOrder (s : State) (l : Line) : (s.endReceive l).owedOrder = s.owedOrder := by
  simp [State.endReceive]
@[simp] theorem State.endReceive_now (s : State) (l : Line) : (s.endReceive l).now = s.now := by
  simp [State.endReceive]
@[simp] theorem State.endReceive_phase (s : State) (l : Line) : (s.endReceive l).phase = s.phase := by
  simp [State.endReceive]
@[simp] theorem State.endReceive_cycle (s : State) (l : Line) : (s.endReceive l).cycle = s.cycle := by
  simp [State.endReceive]
@[simp] theorem State.endReceive_startKind (s : State) (l : Line) : (s.endReceive l).startKind = s.startKind := by
  simp [State.endReceive]
@[simp] theorem State.endReceive_missRun (s : State) (l : Line) : (s.endReceive l).missRun = s.missRun := by
  simp [State.endReceive]
@[simp] theorem State.endReceive_lossRaised (s : State) (l : Line) : (s.endReceive l).lossRaised = s.lossRaised := by
  simp [State.endReceive]
@[simp] theorem State.endReceive_capture (s : State) (l : Line) : (s.endReceive l).capture = s.capture := by
  simp [State.endReceive]
@[simp] theorem State.endReceive_sampled (s : State) (l : Line) : (s.endReceive l).sampled = s.sampled := by
  simp [State.endReceive]
@[simp] theorem State.endReceive_qualifiedLevel (s : State) (l : Line) : (s.endReceive l).qualifiedLevel = s.qualifiedLevel := by
  simp [State.endReceive]
@[simp] theorem State.endReceive_syncRun (s : State) (l : Line) : (s.endReceive l).syncRun = s.syncRun := by
  simp [State.endReceive]
@[simp] theorem State.endReceive_levelChange (s : State) (l : Line) : (s.endReceive l).levelChange = s.levelChange := by
  simp [State.endReceive]
@[simp] theorem State.endReceive_schedule (s : State) (l : Line) : (s.endReceive l).schedule = s.schedule := by
  simp [State.endReceive]
@[simp] theorem State.endReceive_delivery (s : State) (l : Line) : (s.endReceive l).delivery = s.delivery := by
  simp [State.endReceive]
@[simp] theorem State.endReceive_advanceHeld (s : State) (l : Line) : (s.endReceive l).advanceHeld = s.advanceHeld := by
  simp [State.endReceive]
@[simp] theorem State.endReceive_pending (s : State) (l : Line) : (s.endReceive l).pending = s.pending := by
  simp [State.endReceive]

/-! ### arrive -/

@[simp] theorem State.arrive_params (s : State) (l : Line) (b : List Byte) : (s.arrive l b).params = s.params := by
  unfold State.arrive; split <;> simp
@[simp] theorem State.arrive_stagedLength (s : State) (l : Line) (b : List Byte) : (s.arrive l b).stagedLength = s.stagedLength := by
  unfold State.arrive; split <;> simp
@[simp] theorem State.arrive_policies (s : State) (l : Line) (b : List Byte) : (s.arrive l b).policies = s.policies := by
  unfold State.arrive; split <;> simp
@[simp] theorem State.arrive_admissionCounter (s : State) (l : Line) (b : List Byte) : (s.arrive l b).admissionCounter = s.admissionCounter := by
  unfold State.arrive; split <;> simp
@[simp] theorem State.arrive_scheduleRun (s : State) (l : Line) (b : List Byte) : (s.arrive l b).scheduleRun = s.scheduleRun := by
  unfold State.arrive; split <;> simp
@[simp] theorem State.arrive_inFlight (s : State) (l : Line) (b : List Byte) : (s.arrive l b).inFlight = s.inFlight := by
  unfold State.arrive; split <;> simp
@[simp] theorem State.arrive_now (s : State) (l : Line) (b : List Byte) : (s.arrive l b).now = s.now := by
  unfold State.arrive; split <;> simp
@[simp] theorem State.arrive_phase (s : State) (l : Line) (b : List Byte) : (s.arrive l b).phase = s.phase := by
  unfold State.arrive; split <;> simp
@[simp] theorem State.arrive_cycle (s : State) (l : Line) (b : List Byte) : (s.arrive l b).cycle = s.cycle := by
  unfold State.arrive; split <;> simp
@[simp] theorem State.arrive_startKind (s : State) (l : Line) (b : List Byte) : (s.arrive l b).startKind = s.startKind := by
  unfold State.arrive; split <;> simp
@[simp] theorem State.arrive_missRun (s : State) (l : Line) (b : List Byte) : (s.arrive l b).missRun = s.missRun := by
  unfold State.arrive; split <;> simp
@[simp] theorem State.arrive_lossRaised (s : State) (l : Line) (b : List Byte) : (s.arrive l b).lossRaised = s.lossRaised := by
  unfold State.arrive; split <;> simp
@[simp] theorem State.arrive_capture (s : State) (l : Line) (b : List Byte) : (s.arrive l b).capture = s.capture := by
  unfold State.arrive; split <;> simp
@[simp] theorem State.arrive_sampled (s : State) (l : Line) (b : List Byte) : (s.arrive l b).sampled = s.sampled := by
  unfold State.arrive; split <;> simp
@[simp] theorem State.arrive_qualifiedLevel (s : State) (l : Line) (b : List Byte) : (s.arrive l b).qualifiedLevel = s.qualifiedLevel := by
  unfold State.arrive; split <;> simp
@[simp] theorem State.arrive_syncRun (s : State) (l : Line) (b : List Byte) : (s.arrive l b).syncRun = s.syncRun := by
  unfold State.arrive; split <;> simp
@[simp] theorem State.arrive_levelChange (s : State) (l : Line) (b : List Byte) : (s.arrive l b).levelChange = s.levelChange := by
  unfold State.arrive; split <;> simp
@[simp] theorem State.arrive_schedule (s : State) (l : Line) (b : List Byte) : (s.arrive l b).schedule = s.schedule := by
  unfold State.arrive; split <;> simp
@[simp] theorem State.arrive_advanceHeld (s : State) (l : Line) (b : List Byte) : (s.arrive l b).advanceHeld = s.advanceHeld := by
  unfold State.arrive; split <;> simp
@[simp] theorem State.arrive_pending (s : State) (l : Line) (b : List Byte) : (s.arrive l b).pending = s.pending := by
  unfold State.arrive; split <;> simp

/-! ### fire -/

@[simp] theorem State.fire_headPort (s : State) (k : EntryIndex) (x : ScheduleFields) : (s.fire k x).headPort = s.headPort := by
  unfold State.fire; simp only; split <;> rfl
@[simp] theorem State.fire_fieldPort (s : State) (k : EntryIndex) (x : ScheduleFields) : (s.fire k x).fieldPort = s.fieldPort := by
  unfold State.fire; simp only; split <;> rfl
@[simp] theorem State.fire_intake (s : State) (k : EntryIndex) (x : ScheduleFields) : (s.fire k x).intake = s.intake := by
  unfold State.fire; simp only; split <;> rfl
@[simp] theorem State.fire_params (s : State) (k : EntryIndex) (x : ScheduleFields) : (s.fire k x).params = s.params := by
  unfold State.fire; simp only; split <;> rfl
@[simp] theorem State.fire_stagedLength (s : State) (k : EntryIndex) (x : ScheduleFields) : (s.fire k x).stagedLength = s.stagedLength := by
  unfold State.fire; simp only; split <;> rfl
@[simp] theorem State.fire_flags (s : State) (k : EntryIndex) (x : ScheduleFields) : (s.fire k x).flags = s.flags := by
  unfold State.fire; simp only; split <;> rfl
@[simp] theorem State.fire_flagEvent (s : State) (k : EntryIndex) (x : ScheduleFields) : (s.fire k x).flagEvent = s.flagEvent := by
  unfold State.fire; simp only; split <;> rfl
@[simp] theorem State.fire_flagsOwed (s : State) (k : EntryIndex) (x : ScheduleFields) : (s.fire k x).flagsOwed = s.flagsOwed := by
  unfold State.fire; simp only; split <;> rfl
@[simp] theorem State.fire_policies (s : State) (k : EntryIndex) (x : ScheduleFields) : (s.fire k x).policies = s.policies := by
  unfold State.fire; simp only; split <;> rfl
@[simp] theorem State.fire_deferralList (s : State) (k : EntryIndex) (x : ScheduleFields) : (s.fire k x).deferralList = s.deferralList := by
  unfold State.fire; simp only; split <;> rfl
@[simp] theorem State.fire_nodes (s : State) (k : EntryIndex) (x : ScheduleFields) : (s.fire k x).nodes = s.nodes := by
  unfold State.fire; simp only; split <;> rfl
@[simp] theorem State.fire_scheduleRun (s : State) (k : EntryIndex) (x : ScheduleFields) : (s.fire k x).scheduleRun = s.scheduleRun := by
  unfold State.fire; simp only; split <;> rfl
@[simp] theorem State.fire_inFlight (s : State) (k : EntryIndex) (x : ScheduleFields) : (s.fire k x).inFlight = s.inFlight := by
  unfold State.fire; simp only; split <;> rfl
@[simp] theorem State.fire_receipts (s : State) (k : EntryIndex) (x : ScheduleFields) : (s.fire k x).receipts = s.receipts := by
  unfold State.fire; simp only; split <;> rfl
@[simp] theorem State.fire_store (s : State) (k : EntryIndex) (x : ScheduleFields) : (s.fire k x).store = s.store := by
  unfold State.fire; simp only; split <;> rfl
@[simp] theorem State.fire_owedOrder (s : State) (k : EntryIndex) (x : ScheduleFields) : (s.fire k x).owedOrder = s.owedOrder := by
  unfold State.fire; simp only; split <;> rfl
@[simp] theorem State.fire_now (s : State) (k : EntryIndex) (x : ScheduleFields) : (s.fire k x).now = s.now := by
  unfold State.fire; simp only; split <;> rfl
@[simp] theorem State.fire_phase (s : State) (k : EntryIndex) (x : ScheduleFields) : (s.fire k x).phase = s.phase := by
  unfold State.fire; simp only; split <;> rfl
@[simp] theorem State.fire_cycle (s : State) (k : EntryIndex) (x : ScheduleFields) : (s.fire k x).cycle = s.cycle := by
  unfold State.fire; simp only; split <;> rfl
@[simp] theorem State.fire_startKind (s : State) (k : EntryIndex) (x : ScheduleFields) : (s.fire k x).startKind = s.startKind := by
  unfold State.fire; simp only; split <;> rfl
@[simp] theorem State.fire_missRun (s : State) (k : EntryIndex) (x : ScheduleFields) : (s.fire k x).missRun = s.missRun := by
  unfold State.fire; simp only; split <;> rfl
@[simp] theorem State.fire_lossRaised (s : State) (k : EntryIndex) (x : ScheduleFields) : (s.fire k x).lossRaised = s.lossRaised := by
  unfold State.fire; simp only; split <;> rfl
@[simp] theorem State.fire_capture (s : State) (k : EntryIndex) (x : ScheduleFields) : (s.fire k x).capture = s.capture := by
  unfold State.fire; simp only; split <;> rfl
@[simp] theorem State.fire_sampled (s : State) (k : EntryIndex) (x : ScheduleFields) : (s.fire k x).sampled = s.sampled := by
  unfold State.fire; simp only; split <;> rfl
@[simp] theorem State.fire_qualifiedLevel (s : State) (k : EntryIndex) (x : ScheduleFields) : (s.fire k x).qualifiedLevel = s.qualifiedLevel := by
  unfold State.fire; simp only; split <;> rfl
@[simp] theorem State.fire_syncRun (s : State) (k : EntryIndex) (x : ScheduleFields) : (s.fire k x).syncRun = s.syncRun := by
  unfold State.fire; simp only; split <;> rfl
@[simp] theorem State.fire_levelChange (s : State) (k : EntryIndex) (x : ScheduleFields) : (s.fire k x).levelChange = s.levelChange := by
  unfold State.fire; simp only; split <;> rfl
@[simp] theorem State.fire_delivery (s : State) (k : EntryIndex) (x : ScheduleFields) : (s.fire k x).delivery = s.delivery := by
  unfold State.fire; simp only; split <;> rfl
@[simp] theorem State.fire_advanceHeld (s : State) (k : EntryIndex) (x : ScheduleFields) : (s.fire k x).advanceHeld = s.advanceHeld := by
  unfold State.fire; simp only; split <;> rfl
@[simp] theorem State.fire_pending (s : State) (k : EntryIndex) (x : ScheduleFields) : (s.fire k x).pending = s.pending := by
  unfold State.fire; simp only; split <;> rfl

/-! ### fireAt -/

@[simp] theorem State.fireAt_headPort (s : State) (n : Nat) (k : EntryIndex) : (s.fireAt n k).headPort = s.headPort := by
  unfold State.fireAt; split <;> simp
@[simp] theorem State.fireAt_fieldPort (s : State) (n : Nat) (k : EntryIndex) : (s.fireAt n k).fieldPort = s.fieldPort := by
  unfold State.fireAt; split <;> simp
@[simp] theorem State.fireAt_intake (s : State) (n : Nat) (k : EntryIndex) : (s.fireAt n k).intake = s.intake := by
  unfold State.fireAt; split <;> simp
@[simp] theorem State.fireAt_params (s : State) (n : Nat) (k : EntryIndex) : (s.fireAt n k).params = s.params := by
  unfold State.fireAt; split <;> simp
@[simp] theorem State.fireAt_stagedLength (s : State) (n : Nat) (k : EntryIndex) : (s.fireAt n k).stagedLength = s.stagedLength := by
  unfold State.fireAt; split <;> simp
@[simp] theorem State.fireAt_flags (s : State) (n : Nat) (k : EntryIndex) : (s.fireAt n k).flags = s.flags := by
  unfold State.fireAt; split <;> simp
@[simp] theorem State.fireAt_flagEvent (s : State) (n : Nat) (k : EntryIndex) : (s.fireAt n k).flagEvent = s.flagEvent := by
  unfold State.fireAt; split <;> simp
@[simp] theorem State.fireAt_flagsOwed (s : State) (n : Nat) (k : EntryIndex) : (s.fireAt n k).flagsOwed = s.flagsOwed := by
  unfold State.fireAt; split <;> simp
@[simp] theorem State.fireAt_policies (s : State) (n : Nat) (k : EntryIndex) : (s.fireAt n k).policies = s.policies := by
  unfold State.fireAt; split <;> simp
@[simp] theorem State.fireAt_deferralList (s : State) (n : Nat) (k : EntryIndex) : (s.fireAt n k).deferralList = s.deferralList := by
  unfold State.fireAt; split <;> simp
@[simp] theorem State.fireAt_nodes (s : State) (n : Nat) (k : EntryIndex) : (s.fireAt n k).nodes = s.nodes := by
  unfold State.fireAt; split <;> simp
@[simp] theorem State.fireAt_scheduleRun (s : State) (n : Nat) (k : EntryIndex) : (s.fireAt n k).scheduleRun = s.scheduleRun := by
  unfold State.fireAt; split <;> simp
@[simp] theorem State.fireAt_inFlight (s : State) (n : Nat) (k : EntryIndex) : (s.fireAt n k).inFlight = s.inFlight := by
  unfold State.fireAt; split <;> simp
@[simp] theorem State.fireAt_receipts (s : State) (n : Nat) (k : EntryIndex) : (s.fireAt n k).receipts = s.receipts := by
  unfold State.fireAt; split <;> simp
@[simp] theorem State.fireAt_store (s : State) (n : Nat) (k : EntryIndex) : (s.fireAt n k).store = s.store := by
  unfold State.fireAt; split <;> simp
@[simp] theorem State.fireAt_owedOrder (s : State) (n : Nat) (k : EntryIndex) : (s.fireAt n k).owedOrder = s.owedOrder := by
  unfold State.fireAt; split <;> simp
@[simp] theorem State.fireAt_now (s : State) (n : Nat) (k : EntryIndex) : (s.fireAt n k).now = s.now := by
  unfold State.fireAt; split <;> simp
@[simp] theorem State.fireAt_phase (s : State) (n : Nat) (k : EntryIndex) : (s.fireAt n k).phase = s.phase := by
  unfold State.fireAt; split <;> simp
@[simp] theorem State.fireAt_cycle (s : State) (n : Nat) (k : EntryIndex) : (s.fireAt n k).cycle = s.cycle := by
  unfold State.fireAt; split <;> simp
@[simp] theorem State.fireAt_startKind (s : State) (n : Nat) (k : EntryIndex) : (s.fireAt n k).startKind = s.startKind := by
  unfold State.fireAt; split <;> simp
@[simp] theorem State.fireAt_missRun (s : State) (n : Nat) (k : EntryIndex) : (s.fireAt n k).missRun = s.missRun := by
  unfold State.fireAt; split <;> simp
@[simp] theorem State.fireAt_lossRaised (s : State) (n : Nat) (k : EntryIndex) : (s.fireAt n k).lossRaised = s.lossRaised := by
  unfold State.fireAt; split <;> simp
@[simp] theorem State.fireAt_capture (s : State) (n : Nat) (k : EntryIndex) : (s.fireAt n k).capture = s.capture := by
  unfold State.fireAt; split <;> simp
@[simp] theorem State.fireAt_sampled (s : State) (n : Nat) (k : EntryIndex) : (s.fireAt n k).sampled = s.sampled := by
  unfold State.fireAt; split <;> simp
@[simp] theorem State.fireAt_qualifiedLevel (s : State) (n : Nat) (k : EntryIndex) : (s.fireAt n k).qualifiedLevel = s.qualifiedLevel := by
  unfold State.fireAt; split <;> simp
@[simp] theorem State.fireAt_syncRun (s : State) (n : Nat) (k : EntryIndex) : (s.fireAt n k).syncRun = s.syncRun := by
  unfold State.fireAt; split <;> simp
@[simp] theorem State.fireAt_levelChange (s : State) (n : Nat) (k : EntryIndex) : (s.fireAt n k).levelChange = s.levelChange := by
  unfold State.fireAt; split <;> simp
@[simp] theorem State.fireAt_delivery (s : State) (n : Nat) (k : EntryIndex) : (s.fireAt n k).delivery = s.delivery := by
  unfold State.fireAt; split <;> simp
@[simp] theorem State.fireAt_advanceHeld (s : State) (n : Nat) (k : EntryIndex) : (s.fireAt n k).advanceHeld = s.advanceHeld := by
  unfold State.fireAt; split <;> simp
@[simp] theorem State.fireAt_pending (s : State) (n : Nat) (k : EntryIndex) : (s.fireAt n k).pending = s.pending := by
  unfold State.fireAt; split <;> simp

/-! ### scheduleWork -/

@[simp] theorem State.scheduleWork_headPort (s : State) (c : CycleCount) (b : Bool) : (s.scheduleWork c b).headPort = s.headPort := by
  unfold State.scheduleWork; simp only; rw [foldl_field State.headPort (fun st k => st.fireAt 0 k) (by simp)]; simp
@[simp] theorem State.scheduleWork_fieldPort (s : State) (c : CycleCount) (b : Bool) : (s.scheduleWork c b).fieldPort = s.fieldPort := by
  unfold State.scheduleWork; simp only; rw [foldl_field State.fieldPort (fun st k => st.fireAt 0 k) (by simp)]; simp
@[simp] theorem State.scheduleWork_intake (s : State) (c : CycleCount) (b : Bool) : (s.scheduleWork c b).intake = s.intake := by
  unfold State.scheduleWork; simp only; rw [foldl_field State.intake (fun st k => st.fireAt 0 k) (by simp)]; simp
@[simp] theorem State.scheduleWork_params (s : State) (c : CycleCount) (b : Bool) : (s.scheduleWork c b).params = s.params := by
  unfold State.scheduleWork; simp only; rw [foldl_field State.params (fun st k => st.fireAt 0 k) (by simp)]; simp
@[simp] theorem State.scheduleWork_stagedLength (s : State) (c : CycleCount) (b : Bool) : (s.scheduleWork c b).stagedLength = s.stagedLength := by
  unfold State.scheduleWork; simp only; rw [foldl_field State.stagedLength (fun st k => st.fireAt 0 k) (by simp)]; simp
@[simp] theorem State.scheduleWork_policies (s : State) (c : CycleCount) (b : Bool) : (s.scheduleWork c b).policies = s.policies := by
  unfold State.scheduleWork; simp only; rw [foldl_field State.policies (fun st k => st.fireAt 0 k) (by simp)]; simp
@[simp] theorem State.scheduleWork_deferralList (s : State) (c : CycleCount) (b : Bool) : (s.scheduleWork c b).deferralList = s.deferralList := by
  unfold State.scheduleWork; simp only; rw [foldl_field State.deferralList (fun st k => st.fireAt 0 k) (by simp)]; simp
@[simp] theorem State.scheduleWork_nodes (s : State) (c : CycleCount) (b : Bool) : (s.scheduleWork c b).nodes = s.nodes := by
  unfold State.scheduleWork; simp only; rw [foldl_field State.nodes (fun st k => st.fireAt 0 k) (by simp)]; simp
@[simp] theorem State.scheduleWork_scheduleRun (s : State) (c : CycleCount) (b : Bool) : (s.scheduleWork c b).scheduleRun = s.scheduleRun := by
  unfold State.scheduleWork; simp only; rw [foldl_field State.scheduleRun (fun st k => st.fireAt 0 k) (by simp)]; simp
@[simp] theorem State.scheduleWork_inFlight (s : State) (c : CycleCount) (b : Bool) : (s.scheduleWork c b).inFlight = s.inFlight := by
  unfold State.scheduleWork; simp only; rw [foldl_field State.inFlight (fun st k => st.fireAt 0 k) (by simp)]; simp
@[simp] theorem State.scheduleWork_receipts (s : State) (c : CycleCount) (b : Bool) : (s.scheduleWork c b).receipts = s.receipts := by
  unfold State.scheduleWork; simp only; rw [foldl_field State.receipts (fun st k => st.fireAt 0 k) (by simp)]; simp
@[simp] theorem State.scheduleWork_store (s : State) (c : CycleCount) (b : Bool) : (s.scheduleWork c b).store = s.store := by
  unfold State.scheduleWork; simp only; rw [foldl_field State.store (fun st k => st.fireAt 0 k) (by simp)]; simp
@[simp] theorem State.scheduleWork_owedOrder (s : State) (c : CycleCount) (b : Bool) : (s.scheduleWork c b).owedOrder = s.owedOrder := by
  unfold State.scheduleWork; simp only; rw [foldl_field State.owedOrder (fun st k => st.fireAt 0 k) (by simp)]; simp
@[simp] theorem State.scheduleWork_now (s : State) (c : CycleCount) (b : Bool) : (s.scheduleWork c b).now = s.now := by
  unfold State.scheduleWork; simp only; rw [foldl_field State.now (fun st k => st.fireAt 0 k) (by simp)]; simp
@[simp] theorem State.scheduleWork_phase (s : State) (c : CycleCount) (b : Bool) : (s.scheduleWork c b).phase = s.phase := by
  unfold State.scheduleWork; simp only; rw [foldl_field State.phase (fun st k => st.fireAt 0 k) (by simp)]; simp
@[simp] theorem State.scheduleWork_cycle (s : State) (c : CycleCount) (b : Bool) : (s.scheduleWork c b).cycle = s.cycle := by
  unfold State.scheduleWork; simp only; rw [foldl_field State.cycle (fun st k => st.fireAt 0 k) (by simp)]; simp
@[simp] theorem State.scheduleWork_startKind (s : State) (c : CycleCount) (b : Bool) : (s.scheduleWork c b).startKind = s.startKind := by
  unfold State.scheduleWork; simp only; rw [foldl_field State.startKind (fun st k => st.fireAt 0 k) (by simp)]; simp
@[simp] theorem State.scheduleWork_missRun (s : State) (c : CycleCount) (b : Bool) : (s.scheduleWork c b).missRun = s.missRun := by
  unfold State.scheduleWork; simp only; rw [foldl_field State.missRun (fun st k => st.fireAt 0 k) (by simp)]; simp
@[simp] theorem State.scheduleWork_lossRaised (s : State) (c : CycleCount) (b : Bool) : (s.scheduleWork c b).lossRaised = s.lossRaised := by
  unfold State.scheduleWork; simp only; rw [foldl_field State.lossRaised (fun st k => st.fireAt 0 k) (by simp)]; simp
@[simp] theorem State.scheduleWork_capture (s : State) (c : CycleCount) (b : Bool) : (s.scheduleWork c b).capture = s.capture := by
  unfold State.scheduleWork; simp only; rw [foldl_field State.capture (fun st k => st.fireAt 0 k) (by simp)]; simp
@[simp] theorem State.scheduleWork_sampled (s : State) (c : CycleCount) (b : Bool) : (s.scheduleWork c b).sampled = s.sampled := by
  unfold State.scheduleWork; simp only; rw [foldl_field State.sampled (fun st k => st.fireAt 0 k) (by simp)]; simp
@[simp] theorem State.scheduleWork_qualifiedLevel (s : State) (c : CycleCount) (b : Bool) : (s.scheduleWork c b).qualifiedLevel = s.qualifiedLevel := by
  unfold State.scheduleWork; simp only; rw [foldl_field State.qualifiedLevel (fun st k => st.fireAt 0 k) (by simp)]; simp
@[simp] theorem State.scheduleWork_syncRun (s : State) (c : CycleCount) (b : Bool) : (s.scheduleWork c b).syncRun = s.syncRun := by
  unfold State.scheduleWork; simp only; rw [foldl_field State.syncRun (fun st k => st.fireAt 0 k) (by simp)]; simp
@[simp] theorem State.scheduleWork_levelChange (s : State) (c : CycleCount) (b : Bool) : (s.scheduleWork c b).levelChange = s.levelChange := by
  unfold State.scheduleWork; simp only; rw [foldl_field State.levelChange (fun st k => st.fireAt 0 k) (by simp)]; simp
@[simp] theorem State.scheduleWork_delivery (s : State) (c : CycleCount) (b : Bool) : (s.scheduleWork c b).delivery = s.delivery := by
  unfold State.scheduleWork; simp only; rw [foldl_field State.delivery (fun st k => st.fireAt 0 k) (by simp)]; simp
@[simp] theorem State.scheduleWork_advanceHeld (s : State) (c : CycleCount) (b : Bool) : (s.scheduleWork c b).advanceHeld = s.advanceHeld := by
  unfold State.scheduleWork; simp only; rw [foldl_field State.advanceHeld (fun st k => st.fireAt 0 k) (by simp)]; simp
@[simp] theorem State.scheduleWork_pending (s : State) (c : CycleCount) (b : Bool) : (s.scheduleWork c b).pending = s.pending := by
  unfold State.scheduleWork; simp only; rw [foldl_field State.pending (fun st k => st.fireAt 0 k) (by simp)]; simp

/-! ### startCycle -/

@[simp] theorem State.startCycle_headPort (s : State) (k : StartKind) : (s.startCycle k).headPort = s.headPort := by
  unfold State.startCycle; simp
@[simp] theorem State.startCycle_fieldPort (s : State) (k : StartKind) : (s.startCycle k).fieldPort = s.fieldPort := by
  unfold State.startCycle; simp
@[simp] theorem State.startCycle_intake (s : State) (k : StartKind) : (s.startCycle k).intake = s.intake := by
  unfold State.startCycle; simp
@[simp] theorem State.startCycle_policies (s : State) (k : StartKind) : (s.startCycle k).policies = s.policies := by
  unfold State.startCycle; simp
@[simp] theorem State.startCycle_deferralList (s : State) (k : StartKind) : (s.startCycle k).deferralList = s.deferralList := by
  unfold State.startCycle; simp
@[simp] theorem State.startCycle_nodes (s : State) (k : StartKind) : (s.startCycle k).nodes = s.nodes := by
  unfold State.startCycle; simp
@[simp] theorem State.startCycle_scheduleRun (s : State) (k : StartKind) : (s.startCycle k).scheduleRun = s.scheduleRun := by
  unfold State.startCycle; simp
@[simp] theorem State.startCycle_inFlight (s : State) (k : StartKind) : (s.startCycle k).inFlight = s.inFlight := by
  unfold State.startCycle; simp
@[simp] theorem State.startCycle_receipts (s : State) (k : StartKind) : (s.startCycle k).receipts = s.receipts := by
  unfold State.startCycle; simp
@[simp] theorem State.startCycle_store (s : State) (k : StartKind) : (s.startCycle k).store = s.store := by
  unfold State.startCycle; simp
@[simp] theorem State.startCycle_owedOrder (s : State) (k : StartKind) : (s.startCycle k).owedOrder = s.owedOrder := by
  unfold State.startCycle; simp
@[simp] theorem State.startCycle_now (s : State) (k : StartKind) : (s.startCycle k).now = s.now := by
  unfold State.startCycle; simp
@[simp] theorem State.startCycle_sampled (s : State) (k : StartKind) : (s.startCycle k).sampled = s.sampled := by
  unfold State.startCycle; simp
@[simp] theorem State.startCycle_qualifiedLevel (s : State) (k : StartKind) : (s.startCycle k).qualifiedLevel = s.qualifiedLevel := by
  unfold State.startCycle; simp
@[simp] theorem State.startCycle_syncRun (s : State) (k : StartKind) : (s.startCycle k).syncRun = s.syncRun := by
  unfold State.startCycle; simp
@[simp] theorem State.startCycle_levelChange (s : State) (k : StartKind) : (s.startCycle k).levelChange = s.levelChange := by
  unfold State.startCycle; simp
@[simp] theorem State.startCycle_delivery (s : State) (k : StartKind) : (s.startCycle k).delivery = s.delivery := by
  unfold State.startCycle; simp
@[simp] theorem State.startCycle_advanceHeld (s : State) (k : StartKind) : (s.startCycle k).advanceHeld = s.advanceHeld := by
  unfold State.startCycle; simp
@[simp] theorem State.startCycle_pending (s : State) (k : StartKind) : (s.startCycle k).pending = s.pending := by
  unfold State.startCycle; simp

/-! ### endCycle -/

@[simp] theorem State.endCycle_headPort (s : State) : (s.endCycle).headPort = s.headPort := by
  unfold State.endCycle; simp
@[simp] theorem State.endCycle_fieldPort (s : State) : (s.endCycle).fieldPort = s.fieldPort := by
  unfold State.endCycle; simp
@[simp] theorem State.endCycle_intake (s : State) : (s.endCycle).intake = s.intake := by
  unfold State.endCycle; simp
@[simp] theorem State.endCycle_policies (s : State) : (s.endCycle).policies = s.policies := by
  unfold State.endCycle; simp
@[simp] theorem State.endCycle_deferralList (s : State) : (s.endCycle).deferralList = s.deferralList := by
  unfold State.endCycle; simp
@[simp] theorem State.endCycle_nodes (s : State) : (s.endCycle).nodes = s.nodes := by
  unfold State.endCycle; simp
@[simp] theorem State.endCycle_scheduleRun (s : State) : (s.endCycle).scheduleRun = s.scheduleRun := by
  unfold State.endCycle; simp
@[simp] theorem State.endCycle_inFlight (s : State) : (s.endCycle).inFlight = s.inFlight := by
  unfold State.endCycle; simp
@[simp] theorem State.endCycle_receipts (s : State) : (s.endCycle).receipts = s.receipts := by
  unfold State.endCycle; simp
@[simp] theorem State.endCycle_store (s : State) : (s.endCycle).store = s.store := by
  unfold State.endCycle; simp
@[simp] theorem State.endCycle_owedOrder (s : State) : (s.endCycle).owedOrder = s.owedOrder := by
  unfold State.endCycle; simp
@[simp] theorem State.endCycle_now (s : State) : (s.endCycle).now = s.now := by
  unfold State.endCycle; simp
@[simp] theorem State.endCycle_sampled (s : State) : (s.endCycle).sampled = s.sampled := by
  unfold State.endCycle; simp
@[simp] theorem State.endCycle_qualifiedLevel (s : State) : (s.endCycle).qualifiedLevel = s.qualifiedLevel := by
  unfold State.endCycle; simp
@[simp] theorem State.endCycle_syncRun (s : State) : (s.endCycle).syncRun = s.syncRun := by
  unfold State.endCycle; simp
@[simp] theorem State.endCycle_levelChange (s : State) : (s.endCycle).levelChange = s.levelChange := by
  unfold State.endCycle; simp
@[simp] theorem State.endCycle_delivery (s : State) : (s.endCycle).delivery = s.delivery := by
  unfold State.endCycle; simp
@[simp] theorem State.endCycle_pending (s : State) : (s.endCycle).pending = s.pending := by
  unfold State.endCycle; simp

/-! ### takeAdvance -/

@[simp] theorem State.takeAdvance_headPort (s : State) : (s.takeAdvance).headPort = s.headPort := by
  unfold State.takeAdvance; split <;> simp
@[simp] theorem State.takeAdvance_fieldPort (s : State) : (s.takeAdvance).fieldPort = s.fieldPort := by
  unfold State.takeAdvance; split <;> simp
@[simp] theorem State.takeAdvance_intake (s : State) : (s.takeAdvance).intake = s.intake := by
  unfold State.takeAdvance; split <;> simp
@[simp] theorem State.takeAdvance_policies (s : State) : (s.takeAdvance).policies = s.policies := by
  unfold State.takeAdvance; split <;> simp
@[simp] theorem State.takeAdvance_deferralList (s : State) : (s.takeAdvance).deferralList = s.deferralList := by
  unfold State.takeAdvance; split <;> simp
@[simp] theorem State.takeAdvance_nodes (s : State) : (s.takeAdvance).nodes = s.nodes := by
  unfold State.takeAdvance; split <;> simp
@[simp] theorem State.takeAdvance_scheduleRun (s : State) : (s.takeAdvance).scheduleRun = s.scheduleRun := by
  unfold State.takeAdvance; split <;> simp
@[simp] theorem State.takeAdvance_inFlight (s : State) : (s.takeAdvance).inFlight = s.inFlight := by
  unfold State.takeAdvance; split <;> simp
@[simp] theorem State.takeAdvance_receipts (s : State) : (s.takeAdvance).receipts = s.receipts := by
  unfold State.takeAdvance; split <;> simp
@[simp] theorem State.takeAdvance_store (s : State) : (s.takeAdvance).store = s.store := by
  unfold State.takeAdvance; split <;> simp
@[simp] theorem State.takeAdvance_owedOrder (s : State) : (s.takeAdvance).owedOrder = s.owedOrder := by
  unfold State.takeAdvance; split <;> simp
@[simp] theorem State.takeAdvance_now (s : State) : (s.takeAdvance).now = s.now := by
  unfold State.takeAdvance; split <;> simp
@[simp] theorem State.takeAdvance_sampled (s : State) : (s.takeAdvance).sampled = s.sampled := by
  unfold State.takeAdvance; split <;> simp
@[simp] theorem State.takeAdvance_qualifiedLevel (s : State) : (s.takeAdvance).qualifiedLevel = s.qualifiedLevel := by
  unfold State.takeAdvance; split <;> simp
@[simp] theorem State.takeAdvance_syncRun (s : State) : (s.takeAdvance).syncRun = s.syncRun := by
  unfold State.takeAdvance; split <;> simp
@[simp] theorem State.takeAdvance_levelChange (s : State) : (s.takeAdvance).levelChange = s.levelChange := by
  unfold State.takeAdvance; split <;> simp
@[simp] theorem State.takeAdvance_delivery (s : State) : (s.takeAdvance).delivery = s.delivery := by
  unfold State.takeAdvance; split <;> simp
@[simp] theorem State.takeAdvance_pending (s : State) : (s.takeAdvance).pending = s.pending := by
  unfold State.takeAdvance; split <;> simp

/-! ### edgeEffect -/

@[simp] theorem State.edgeEffect_headPort (s : State) (c : EdgeClass) : (s.edgeEffect c).headPort = s.headPort := by
  cases c <;> simp [State.edgeEffect]
@[simp] theorem State.edgeEffect_fieldPort (s : State) (c : EdgeClass) : (s.edgeEffect c).fieldPort = s.fieldPort := by
  cases c <;> simp [State.edgeEffect]
@[simp] theorem State.edgeEffect_intake (s : State) (c : EdgeClass) : (s.edgeEffect c).intake = s.intake := by
  cases c <;> simp [State.edgeEffect]
@[simp] theorem State.edgeEffect_policies (s : State) (c : EdgeClass) : (s.edgeEffect c).policies = s.policies := by
  cases c <;> simp [State.edgeEffect]
@[simp] theorem State.edgeEffect_deferralList (s : State) (c : EdgeClass) : (s.edgeEffect c).deferralList = s.deferralList := by
  cases c <;> simp [State.edgeEffect]
@[simp] theorem State.edgeEffect_nodes (s : State) (c : EdgeClass) : (s.edgeEffect c).nodes = s.nodes := by
  cases c <;> simp [State.edgeEffect]
@[simp] theorem State.edgeEffect_scheduleRun (s : State) (c : EdgeClass) : (s.edgeEffect c).scheduleRun = s.scheduleRun := by
  cases c <;> simp [State.edgeEffect]
@[simp] theorem State.edgeEffect_inFlight (s : State) (c : EdgeClass) : (s.edgeEffect c).inFlight = s.inFlight := by
  cases c <;> simp [State.edgeEffect]
@[simp] theorem State.edgeEffect_receipts (s : State) (c : EdgeClass) : (s.edgeEffect c).receipts = s.receipts := by
  cases c <;> simp [State.edgeEffect]
@[simp] theorem State.edgeEffect_store (s : State) (c : EdgeClass) : (s.edgeEffect c).store = s.store := by
  cases c <;> simp [State.edgeEffect]
@[simp] theorem State.edgeEffect_owedOrder (s : State) (c : EdgeClass) : (s.edgeEffect c).owedOrder = s.owedOrder := by
  cases c <;> simp [State.edgeEffect]
@[simp] theorem State.edgeEffect_now (s : State) (c : EdgeClass) : (s.edgeEffect c).now = s.now := by
  cases c <;> simp [State.edgeEffect]
@[simp] theorem State.edgeEffect_sampled (s : State) (c : EdgeClass) : (s.edgeEffect c).sampled = s.sampled := by
  cases c <;> simp [State.edgeEffect]
@[simp] theorem State.edgeEffect_qualifiedLevel (s : State) (c : EdgeClass) : (s.edgeEffect c).qualifiedLevel = s.qualifiedLevel := by
  cases c <;> simp [State.edgeEffect]
@[simp] theorem State.edgeEffect_syncRun (s : State) (c : EdgeClass) : (s.edgeEffect c).syncRun = s.syncRun := by
  cases c <;> simp [State.edgeEffect]
@[simp] theorem State.edgeEffect_levelChange (s : State) (c : EdgeClass) : (s.edgeEffect c).levelChange = s.levelChange := by
  cases c <;> simp [State.edgeEffect]
@[simp] theorem State.edgeEffect_delivery (s : State) (c : EdgeClass) : (s.edgeEffect c).delivery = s.delivery := by
  cases c <;> simp [State.edgeEffect]
@[simp] theorem State.edgeEffect_advanceHeld (s : State) (c : EdgeClass) : (s.edgeEffect c).advanceHeld = s.advanceHeld := by
  cases c <;> simp [State.edgeEffect]
@[simp] theorem State.edgeEffect_pending (s : State) (c : EdgeClass) : (s.edgeEffect c).pending = s.pending := by
  cases c <;> simp [State.edgeEffect]

/-! ### takeEdge -/

@[simp] theorem State.takeEdge_headPort (s : State) : (s.takeEdge).headPort = s.headPort := by
  unfold State.takeEdge; simp
@[simp] theorem State.takeEdge_fieldPort (s : State) : (s.takeEdge).fieldPort = s.fieldPort := by
  unfold State.takeEdge; simp
@[simp] theorem State.takeEdge_intake (s : State) : (s.takeEdge).intake = s.intake := by
  unfold State.takeEdge; simp
@[simp] theorem State.takeEdge_policies (s : State) : (s.takeEdge).policies = s.policies := by
  unfold State.takeEdge; simp
@[simp] theorem State.takeEdge_deferralList (s : State) : (s.takeEdge).deferralList = s.deferralList := by
  unfold State.takeEdge; simp
@[simp] theorem State.takeEdge_nodes (s : State) : (s.takeEdge).nodes = s.nodes := by
  unfold State.takeEdge; simp
@[simp] theorem State.takeEdge_scheduleRun (s : State) : (s.takeEdge).scheduleRun = s.scheduleRun := by
  unfold State.takeEdge; simp
@[simp] theorem State.takeEdge_inFlight (s : State) : (s.takeEdge).inFlight = s.inFlight := by
  unfold State.takeEdge; simp
@[simp] theorem State.takeEdge_receipts (s : State) : (s.takeEdge).receipts = s.receipts := by
  unfold State.takeEdge; simp
@[simp] theorem State.takeEdge_store (s : State) : (s.takeEdge).store = s.store := by
  unfold State.takeEdge; simp
@[simp] theorem State.takeEdge_owedOrder (s : State) : (s.takeEdge).owedOrder = s.owedOrder := by
  unfold State.takeEdge; simp
@[simp] theorem State.takeEdge_now (s : State) : (s.takeEdge).now = s.now := by
  unfold State.takeEdge; simp
@[simp] theorem State.takeEdge_sampled (s : State) : (s.takeEdge).sampled = s.sampled := by
  unfold State.takeEdge; simp
@[simp] theorem State.takeEdge_delivery (s : State) : (s.takeEdge).delivery = s.delivery := by
  unfold State.takeEdge; simp
@[simp] theorem State.takeEdge_pending (s : State) : (s.takeEdge).pending = s.pending := by
  unfold State.takeEdge; simp

/-! ### selectToNode -/

@[simp] theorem State.selectToNode_headPort (s : State) (i : Slot) (e : Exchange) : (s.selectToNode i e).headPort = s.headPort := rfl
@[simp] theorem State.selectToNode_intake (s : State) (i : Slot) (e : Exchange) : (s.selectToNode i e).intake = s.intake := rfl
@[simp] theorem State.selectToNode_params (s : State) (i : Slot) (e : Exchange) : (s.selectToNode i e).params = s.params := rfl
@[simp] theorem State.selectToNode_stagedLength (s : State) (i : Slot) (e : Exchange) : (s.selectToNode i e).stagedLength = s.stagedLength := rfl
@[simp] theorem State.selectToNode_flags (s : State) (i : Slot) (e : Exchange) : (s.selectToNode i e).flags = s.flags := rfl
@[simp] theorem State.selectToNode_flagEvent (s : State) (i : Slot) (e : Exchange) : (s.selectToNode i e).flagEvent = s.flagEvent := rfl
@[simp] theorem State.selectToNode_flagsOwed (s : State) (i : Slot) (e : Exchange) : (s.selectToNode i e).flagsOwed = s.flagsOwed := rfl
@[simp] theorem State.selectToNode_policies (s : State) (i : Slot) (e : Exchange) : (s.selectToNode i e).policies = s.policies := rfl
@[simp] theorem State.selectToNode_admissionCounter (s : State) (i : Slot) (e : Exchange) : (s.selectToNode i e).admissionCounter = s.admissionCounter := rfl
@[simp] theorem State.selectToNode_deferralList (s : State) (i : Slot) (e : Exchange) : (s.selectToNode i e).deferralList = s.deferralList := rfl
@[simp] theorem State.selectToNode_receipts (s : State) (i : Slot) (e : Exchange) : (s.selectToNode i e).receipts = s.receipts := rfl
@[simp] theorem State.selectToNode_store (s : State) (i : Slot) (e : Exchange) : (s.selectToNode i e).store = s.store := rfl
@[simp] theorem State.selectToNode_owedOrder (s : State) (i : Slot) (e : Exchange) : (s.selectToNode i e).owedOrder = s.owedOrder := rfl
@[simp] theorem State.selectToNode_now (s : State) (i : Slot) (e : Exchange) : (s.selectToNode i e).now = s.now := rfl
@[simp] theorem State.selectToNode_phase (s : State) (i : Slot) (e : Exchange) : (s.selectToNode i e).phase = s.phase := rfl
@[simp] theorem State.selectToNode_cycle (s : State) (i : Slot) (e : Exchange) : (s.selectToNode i e).cycle = s.cycle := rfl
@[simp] theorem State.selectToNode_startKind (s : State) (i : Slot) (e : Exchange) : (s.selectToNode i e).startKind = s.startKind := rfl
@[simp] theorem State.selectToNode_missRun (s : State) (i : Slot) (e : Exchange) : (s.selectToNode i e).missRun = s.missRun := rfl
@[simp] theorem State.selectToNode_lossRaised (s : State) (i : Slot) (e : Exchange) : (s.selectToNode i e).lossRaised = s.lossRaised := rfl
@[simp] theorem State.selectToNode_capture (s : State) (i : Slot) (e : Exchange) : (s.selectToNode i e).capture = s.capture := rfl
@[simp] theorem State.selectToNode_sampled (s : State) (i : Slot) (e : Exchange) : (s.selectToNode i e).sampled = s.sampled := rfl
@[simp] theorem State.selectToNode_qualifiedLevel (s : State) (i : Slot) (e : Exchange) : (s.selectToNode i e).qualifiedLevel = s.qualifiedLevel := rfl
@[simp] theorem State.selectToNode_syncRun (s : State) (i : Slot) (e : Exchange) : (s.selectToNode i e).syncRun = s.syncRun := rfl
@[simp] theorem State.selectToNode_levelChange (s : State) (i : Slot) (e : Exchange) : (s.selectToNode i e).levelChange = s.levelChange := rfl
@[simp] theorem State.selectToNode_schedule (s : State) (i : Slot) (e : Exchange) : (s.selectToNode i e).schedule = s.schedule := rfl
@[simp] theorem State.selectToNode_delivery (s : State) (i : Slot) (e : Exchange) : (s.selectToNode i e).delivery = s.delivery := rfl
@[simp] theorem State.selectToNode_advanceHeld (s : State) (i : Slot) (e : Exchange) : (s.selectToNode i e).advanceHeld = s.advanceHeld := rfl
@[simp] theorem State.selectToNode_pending (s : State) (i : Slot) (e : Exchange) : (s.selectToNode i e).pending = s.pending := rfl

/-! ### selectBroadcast -/

@[simp] theorem State.selectBroadcast_headPort (s : State) (i : Slot) (e : Exchange) : (s.selectBroadcast i e).headPort = s.headPort := rfl
@[simp] theorem State.selectBroadcast_intake (s : State) (i : Slot) (e : Exchange) : (s.selectBroadcast i e).intake = s.intake := rfl
@[simp] theorem State.selectBroadcast_params (s : State) (i : Slot) (e : Exchange) : (s.selectBroadcast i e).params = s.params := rfl
@[simp] theorem State.selectBroadcast_stagedLength (s : State) (i : Slot) (e : Exchange) : (s.selectBroadcast i e).stagedLength = s.stagedLength := rfl
@[simp] theorem State.selectBroadcast_flags (s : State) (i : Slot) (e : Exchange) : (s.selectBroadcast i e).flags = s.flags := rfl
@[simp] theorem State.selectBroadcast_flagEvent (s : State) (i : Slot) (e : Exchange) : (s.selectBroadcast i e).flagEvent = s.flagEvent := rfl
@[simp] theorem State.selectBroadcast_flagsOwed (s : State) (i : Slot) (e : Exchange) : (s.selectBroadcast i e).flagsOwed = s.flagsOwed := rfl
@[simp] theorem State.selectBroadcast_policies (s : State) (i : Slot) (e : Exchange) : (s.selectBroadcast i e).policies = s.policies := rfl
@[simp] theorem State.selectBroadcast_admissionCounter (s : State) (i : Slot) (e : Exchange) : (s.selectBroadcast i e).admissionCounter = s.admissionCounter := rfl
@[simp] theorem State.selectBroadcast_deferralList (s : State) (i : Slot) (e : Exchange) : (s.selectBroadcast i e).deferralList = s.deferralList := rfl
@[simp] theorem State.selectBroadcast_nodes (s : State) (i : Slot) (e : Exchange) : (s.selectBroadcast i e).nodes = s.nodes := rfl
@[simp] theorem State.selectBroadcast_receipts (s : State) (i : Slot) (e : Exchange) : (s.selectBroadcast i e).receipts = s.receipts := rfl
@[simp] theorem State.selectBroadcast_store (s : State) (i : Slot) (e : Exchange) : (s.selectBroadcast i e).store = s.store := rfl
@[simp] theorem State.selectBroadcast_owedOrder (s : State) (i : Slot) (e : Exchange) : (s.selectBroadcast i e).owedOrder = s.owedOrder := rfl
@[simp] theorem State.selectBroadcast_now (s : State) (i : Slot) (e : Exchange) : (s.selectBroadcast i e).now = s.now := rfl
@[simp] theorem State.selectBroadcast_phase (s : State) (i : Slot) (e : Exchange) : (s.selectBroadcast i e).phase = s.phase := rfl
@[simp] theorem State.selectBroadcast_cycle (s : State) (i : Slot) (e : Exchange) : (s.selectBroadcast i e).cycle = s.cycle := rfl
@[simp] theorem State.selectBroadcast_startKind (s : State) (i : Slot) (e : Exchange) : (s.selectBroadcast i e).startKind = s.startKind := rfl
@[simp] theorem State.selectBroadcast_missRun (s : State) (i : Slot) (e : Exchange) : (s.selectBroadcast i e).missRun = s.missRun := rfl
@[simp] theorem State.selectBroadcast_lossRaised (s : State) (i : Slot) (e : Exchange) : (s.selectBroadcast i e).lossRaised = s.lossRaised := rfl
@[simp] theorem State.selectBroadcast_capture (s : State) (i : Slot) (e : Exchange) : (s.selectBroadcast i e).capture = s.capture := rfl
@[simp] theorem State.selectBroadcast_sampled (s : State) (i : Slot) (e : Exchange) : (s.selectBroadcast i e).sampled = s.sampled := rfl
@[simp] theorem State.selectBroadcast_qualifiedLevel (s : State) (i : Slot) (e : Exchange) : (s.selectBroadcast i e).qualifiedLevel = s.qualifiedLevel := rfl
@[simp] theorem State.selectBroadcast_syncRun (s : State) (i : Slot) (e : Exchange) : (s.selectBroadcast i e).syncRun = s.syncRun := rfl
@[simp] theorem State.selectBroadcast_levelChange (s : State) (i : Slot) (e : Exchange) : (s.selectBroadcast i e).levelChange = s.levelChange := rfl
@[simp] theorem State.selectBroadcast_schedule (s : State) (i : Slot) (e : Exchange) : (s.selectBroadcast i e).schedule = s.schedule := rfl
@[simp] theorem State.selectBroadcast_delivery (s : State) (i : Slot) (e : Exchange) : (s.selectBroadcast i e).delivery = s.delivery := rfl
@[simp] theorem State.selectBroadcast_advanceHeld (s : State) (i : Slot) (e : Exchange) : (s.selectBroadcast i e).advanceHeld = s.advanceHeld := rfl
@[simp] theorem State.selectBroadcast_pending (s : State) (i : Slot) (e : Exchange) : (s.selectBroadcast i e).pending = s.pending := rfl

/-! ### completeIssue -/

@[simp] theorem State.completeIssue_headPort (s : State) (n w : Nat) : (s.completeIssue n w).headPort = s.headPort := by
  unfold State.completeIssue; repeat' split
  all_goals rfl
@[simp] theorem State.completeIssue_fieldPort (s : State) (n w : Nat) : (s.completeIssue n w).fieldPort = s.fieldPort := by
  unfold State.completeIssue; repeat' split
  all_goals rfl
@[simp] theorem State.completeIssue_intake (s : State) (n w : Nat) : (s.completeIssue n w).intake = s.intake := by
  unfold State.completeIssue; repeat' split
  all_goals rfl
@[simp] theorem State.completeIssue_params (s : State) (n w : Nat) : (s.completeIssue n w).params = s.params := by
  unfold State.completeIssue; repeat' split
  all_goals rfl
@[simp] theorem State.completeIssue_stagedLength (s : State) (n w : Nat) : (s.completeIssue n w).stagedLength = s.stagedLength := by
  unfold State.completeIssue; repeat' split
  all_goals rfl
@[simp] theorem State.completeIssue_flags (s : State) (n w : Nat) : (s.completeIssue n w).flags = s.flags := by
  unfold State.completeIssue; repeat' split
  all_goals rfl
@[simp] theorem State.completeIssue_flagEvent (s : State) (n w : Nat) : (s.completeIssue n w).flagEvent = s.flagEvent := by
  unfold State.completeIssue; repeat' split
  all_goals rfl
@[simp] theorem State.completeIssue_flagsOwed (s : State) (n w : Nat) : (s.completeIssue n w).flagsOwed = s.flagsOwed := by
  unfold State.completeIssue; repeat' split
  all_goals rfl
@[simp] theorem State.completeIssue_counters (s : State) (n w : Nat) : (s.completeIssue n w).counters = s.counters := by
  unfold State.completeIssue; repeat' split
  all_goals rfl
@[simp] theorem State.completeIssue_policies (s : State) (n w : Nat) : (s.completeIssue n w).policies = s.policies := by
  unfold State.completeIssue; repeat' split
  all_goals rfl
@[simp] theorem State.completeIssue_admissionCounter (s : State) (n w : Nat) : (s.completeIssue n w).admissionCounter = s.admissionCounter := by
  unfold State.completeIssue; repeat' split
  all_goals rfl
@[simp] theorem State.completeIssue_pendingOrder (s : State) (n w : Nat) : (s.completeIssue n w).pendingOrder = s.pendingOrder := by
  unfold State.completeIssue; repeat' split
  all_goals rfl
@[simp] theorem State.completeIssue_deferralList (s : State) (n w : Nat) : (s.completeIssue n w).deferralList = s.deferralList := by
  unfold State.completeIssue; repeat' split
  all_goals rfl
@[simp] theorem State.completeIssue_scheduleRun (s : State) (n w : Nat) : (s.completeIssue n w).scheduleRun = s.scheduleRun := by
  unfold State.completeIssue; repeat' split
  all_goals rfl
@[simp] theorem State.completeIssue_inFlight (s : State) (n w : Nat) : (s.completeIssue n w).inFlight = s.inFlight := by
  unfold State.completeIssue; repeat' split
  all_goals rfl
@[simp] theorem State.completeIssue_receipts (s : State) (n w : Nat) : (s.completeIssue n w).receipts = s.receipts := by
  unfold State.completeIssue; repeat' split
  all_goals rfl
@[simp] theorem State.completeIssue_store (s : State) (n w : Nat) : (s.completeIssue n w).store = s.store := by
  unfold State.completeIssue; repeat' split
  all_goals rfl
@[simp] theorem State.completeIssue_owedOrder (s : State) (n w : Nat) : (s.completeIssue n w).owedOrder = s.owedOrder := by
  unfold State.completeIssue; repeat' split
  all_goals rfl
@[simp] theorem State.completeIssue_now (s : State) (n w : Nat) : (s.completeIssue n w).now = s.now := by
  unfold State.completeIssue; repeat' split
  all_goals rfl
@[simp] theorem State.completeIssue_phase (s : State) (n w : Nat) : (s.completeIssue n w).phase = s.phase := by
  unfold State.completeIssue; repeat' split
  all_goals rfl
@[simp] theorem State.completeIssue_cycle (s : State) (n w : Nat) : (s.completeIssue n w).cycle = s.cycle := by
  unfold State.completeIssue; repeat' split
  all_goals rfl
@[simp] theorem State.completeIssue_startKind (s : State) (n w : Nat) : (s.completeIssue n w).startKind = s.startKind := by
  unfold State.completeIssue; repeat' split
  all_goals rfl
@[simp] theorem State.completeIssue_missRun (s : State) (n w : Nat) : (s.completeIssue n w).missRun = s.missRun := by
  unfold State.completeIssue; repeat' split
  all_goals rfl
@[simp] theorem State.completeIssue_lossRaised (s : State) (n w : Nat) : (s.completeIssue n w).lossRaised = s.lossRaised := by
  unfold State.completeIssue; repeat' split
  all_goals rfl
@[simp] theorem State.completeIssue_capture (s : State) (n w : Nat) : (s.completeIssue n w).capture = s.capture := by
  unfold State.completeIssue; repeat' split
  all_goals rfl
@[simp] theorem State.completeIssue_sampled (s : State) (n w : Nat) : (s.completeIssue n w).sampled = s.sampled := by
  unfold State.completeIssue; repeat' split
  all_goals rfl
@[simp] theorem State.completeIssue_qualifiedLevel (s : State) (n w : Nat) : (s.completeIssue n w).qualifiedLevel = s.qualifiedLevel := by
  unfold State.completeIssue; repeat' split
  all_goals rfl
@[simp] theorem State.completeIssue_syncRun (s : State) (n w : Nat) : (s.completeIssue n w).syncRun = s.syncRun := by
  unfold State.completeIssue; repeat' split
  all_goals rfl
@[simp] theorem State.completeIssue_levelChange (s : State) (n w : Nat) : (s.completeIssue n w).levelChange = s.levelChange := by
  unfold State.completeIssue; repeat' split
  all_goals rfl
@[simp] theorem State.completeIssue_schedule (s : State) (n w : Nat) : (s.completeIssue n w).schedule = s.schedule := by
  unfold State.completeIssue; repeat' split
  all_goals rfl
@[simp] theorem State.completeIssue_delivery (s : State) (n w : Nat) : (s.completeIssue n w).delivery = s.delivery := by
  unfold State.completeIssue; repeat' split
  all_goals rfl
@[simp] theorem State.completeIssue_advanceHeld (s : State) (n w : Nat) : (s.completeIssue n w).advanceHeld = s.advanceHeld := by
  unfold State.completeIssue; repeat' split
  all_goals rfl
@[simp] theorem State.completeIssue_pending (s : State) (n w : Nat) : (s.completeIssue n w).pending = s.pending := by
  unfold State.completeIssue; repeat' split
  all_goals rfl

/-! ### loseField -/

@[simp] theorem State.loseField_headPort (s : State) (a : Bool) : (s.loseField a).headPort = s.headPort := by
  unfold State.loseField; simp only [State.raiseFlag_headPort]; rw [foldl_field State.headPort State.loseIssue (by simp)]; simp
@[simp] theorem State.loseField_intake (s : State) (a : Bool) : (s.loseField a).intake = s.intake := by
  unfold State.loseField; simp only [State.raiseFlag_intake]; rw [foldl_field State.intake State.loseIssue (by simp)]; simp
@[simp] theorem State.loseField_params (s : State) (a : Bool) : (s.loseField a).params = s.params := by
  unfold State.loseField; simp only [State.raiseFlag_params]; rw [foldl_field State.params State.loseIssue (by simp)]; simp
@[simp] theorem State.loseField_stagedLength (s : State) (a : Bool) : (s.loseField a).stagedLength = s.stagedLength := by
  unfold State.loseField; simp only [State.raiseFlag_stagedLength]; rw [foldl_field State.stagedLength State.loseIssue (by simp)]; simp
@[simp] theorem State.loseField_policies (s : State) (a : Bool) : (s.loseField a).policies = s.policies := by
  unfold State.loseField; simp only [State.raiseFlag_policies]; rw [foldl_field State.policies State.loseIssue (by simp)]; simp
@[simp] theorem State.loseField_admissionCounter (s : State) (a : Bool) : (s.loseField a).admissionCounter = s.admissionCounter := by
  unfold State.loseField; simp only [State.raiseFlag_admissionCounter]; rw [foldl_field State.admissionCounter State.loseIssue (by simp)]; simp
@[simp] theorem State.loseField_scheduleRun (s : State) (a : Bool) : (s.loseField a).scheduleRun = s.scheduleRun := by
  unfold State.loseField; simp only [State.raiseFlag_scheduleRun]; rw [foldl_field State.scheduleRun State.loseIssue (by simp)]; simp
@[simp] theorem State.loseField_store (s : State) (a : Bool) : (s.loseField a).store = s.store := by
  unfold State.loseField; simp only [State.raiseFlag_store]; rw [foldl_field State.store State.loseIssue (by simp)]; simp
@[simp] theorem State.loseField_owedOrder (s : State) (a : Bool) : (s.loseField a).owedOrder = s.owedOrder := by
  unfold State.loseField; simp only [State.raiseFlag_owedOrder]; rw [foldl_field State.owedOrder State.loseIssue (by simp)]; simp
@[simp] theorem State.loseField_now (s : State) (a : Bool) : (s.loseField a).now = s.now := by
  unfold State.loseField; simp only [State.raiseFlag_now]; rw [foldl_field State.now State.loseIssue (by simp)]; simp
@[simp] theorem State.loseField_phase (s : State) (a : Bool) : (s.loseField a).phase = s.phase := by
  unfold State.loseField; simp only [State.raiseFlag_phase]; rw [foldl_field State.phase State.loseIssue (by simp)]; simp
@[simp] theorem State.loseField_cycle (s : State) (a : Bool) : (s.loseField a).cycle = s.cycle := by
  unfold State.loseField; simp only [State.raiseFlag_cycle]; rw [foldl_field State.cycle State.loseIssue (by simp)]; simp
@[simp] theorem State.loseField_startKind (s : State) (a : Bool) : (s.loseField a).startKind = s.startKind := by
  unfold State.loseField; simp only [State.raiseFlag_startKind]; rw [foldl_field State.startKind State.loseIssue (by simp)]; simp
@[simp] theorem State.loseField_missRun (s : State) (a : Bool) : (s.loseField a).missRun = s.missRun := by
  unfold State.loseField; simp only [State.raiseFlag_missRun]; rw [foldl_field State.missRun State.loseIssue (by simp)]; simp
@[simp] theorem State.loseField_lossRaised (s : State) (a : Bool) : (s.loseField a).lossRaised = s.lossRaised := by
  unfold State.loseField; simp only [State.raiseFlag_lossRaised]; rw [foldl_field State.lossRaised State.loseIssue (by simp)]; simp
@[simp] theorem State.loseField_capture (s : State) (a : Bool) : (s.loseField a).capture = s.capture := by
  unfold State.loseField; simp only [State.raiseFlag_capture]; rw [foldl_field State.capture State.loseIssue (by simp)]; simp
@[simp] theorem State.loseField_sampled (s : State) (a : Bool) : (s.loseField a).sampled = s.sampled := by
  unfold State.loseField; simp only [State.raiseFlag_sampled]; rw [foldl_field State.sampled State.loseIssue (by simp)]; simp
@[simp] theorem State.loseField_qualifiedLevel (s : State) (a : Bool) : (s.loseField a).qualifiedLevel = s.qualifiedLevel := by
  unfold State.loseField; simp only [State.raiseFlag_qualifiedLevel]; rw [foldl_field State.qualifiedLevel State.loseIssue (by simp)]; simp
@[simp] theorem State.loseField_syncRun (s : State) (a : Bool) : (s.loseField a).syncRun = s.syncRun := by
  unfold State.loseField; simp only [State.raiseFlag_syncRun]; rw [foldl_field State.syncRun State.loseIssue (by simp)]; simp
@[simp] theorem State.loseField_levelChange (s : State) (a : Bool) : (s.loseField a).levelChange = s.levelChange := by
  unfold State.loseField; simp only [State.raiseFlag_levelChange]; rw [foldl_field State.levelChange State.loseIssue (by simp)]; simp
@[simp] theorem State.loseField_schedule (s : State) (a : Bool) : (s.loseField a).schedule = s.schedule := by
  unfold State.loseField; simp only [State.raiseFlag_schedule]; rw [foldl_field State.schedule State.loseIssue (by simp)]; simp
@[simp] theorem State.loseField_advanceHeld (s : State) (a : Bool) : (s.loseField a).advanceHeld = s.advanceHeld := by
  unfold State.loseField; simp only [State.raiseFlag_advanceHeld]; rw [foldl_field State.advanceHeld State.loseIssue (by simp)]; simp
@[simp] theorem State.loseField_pending (s : State) (a : Bool) : (s.loseField a).pending = s.pending := by
  unfold State.loseField; simp only [State.raiseFlag_pending]; rw [foldl_field State.pending State.loseIssue (by simp)]; simp

/-! ### applyParameters -/

@[simp] theorem State.applyParameters_headPort (s : State) (p : Parameters) : (s.applyParameters p).headPort = s.headPort := rfl
@[simp] theorem State.applyParameters_fieldPort (s : State) (p : Parameters) : (s.applyParameters p).fieldPort = s.fieldPort := rfl
@[simp] theorem State.applyParameters_intake (s : State) (p : Parameters) : (s.applyParameters p).intake = s.intake := rfl
@[simp] theorem State.applyParameters_flags (s : State) (p : Parameters) : (s.applyParameters p).flags = s.flags := rfl
@[simp] theorem State.applyParameters_flagEvent (s : State) (p : Parameters) : (s.applyParameters p).flagEvent = s.flagEvent := rfl
@[simp] theorem State.applyParameters_flagsOwed (s : State) (p : Parameters) : (s.applyParameters p).flagsOwed = s.flagsOwed := rfl
@[simp] theorem State.applyParameters_counters (s : State) (p : Parameters) : (s.applyParameters p).counters = s.counters := rfl
@[simp] theorem State.applyParameters_policies (s : State) (p : Parameters) : (s.applyParameters p).policies = s.policies := rfl
@[simp] theorem State.applyParameters_slots (s : State) (p : Parameters) : (s.applyParameters p).slots = s.slots := rfl
@[simp] theorem State.applyParameters_admissionCounter (s : State) (p : Parameters) : (s.applyParameters p).admissionCounter = s.admissionCounter := rfl
@[simp] theorem State.applyParameters_pendingOrder (s : State) (p : Parameters) : (s.applyParameters p).pendingOrder = s.pendingOrder := rfl
@[simp] theorem State.applyParameters_deferralList (s : State) (p : Parameters) : (s.applyParameters p).deferralList = s.deferralList := rfl
@[simp] theorem State.applyParameters_nodes (s : State) (p : Parameters) : (s.applyParameters p).nodes = s.nodes := rfl
@[simp] theorem State.applyParameters_scheduleRun (s : State) (p : Parameters) : (s.applyParameters p).scheduleRun = s.scheduleRun := rfl
@[simp] theorem State.applyParameters_inFlight (s : State) (p : Parameters) : (s.applyParameters p).inFlight = s.inFlight := rfl
@[simp] theorem State.applyParameters_receipts (s : State) (p : Parameters) : (s.applyParameters p).receipts = s.receipts := rfl
@[simp] theorem State.applyParameters_store (s : State) (p : Parameters) : (s.applyParameters p).store = s.store := rfl
@[simp] theorem State.applyParameters_owedOrder (s : State) (p : Parameters) : (s.applyParameters p).owedOrder = s.owedOrder := rfl
@[simp] theorem State.applyParameters_now (s : State) (p : Parameters) : (s.applyParameters p).now = s.now := rfl
@[simp] theorem State.applyParameters_phase (s : State) (p : Parameters) : (s.applyParameters p).phase = s.phase := rfl
@[simp] theorem State.applyParameters_cycle (s : State) (p : Parameters) : (s.applyParameters p).cycle = s.cycle := rfl
@[simp] theorem State.applyParameters_startKind (s : State) (p : Parameters) : (s.applyParameters p).startKind = s.startKind := rfl
@[simp] theorem State.applyParameters_capture (s : State) (p : Parameters) : (s.applyParameters p).capture = s.capture := rfl
@[simp] theorem State.applyParameters_sampled (s : State) (p : Parameters) : (s.applyParameters p).sampled = s.sampled := rfl
@[simp] theorem State.applyParameters_qualifiedLevel (s : State) (p : Parameters) : (s.applyParameters p).qualifiedLevel = s.qualifiedLevel := rfl
@[simp] theorem State.applyParameters_levelChange (s : State) (p : Parameters) : (s.applyParameters p).levelChange = s.levelChange := rfl
@[simp] theorem State.applyParameters_schedule (s : State) (p : Parameters) : (s.applyParameters p).schedule = s.schedule := rfl
@[simp] theorem State.applyParameters_delivery (s : State) (p : Parameters) : (s.applyParameters p).delivery = s.delivery := rfl
@[simp] theorem State.applyParameters_advanceHeld (s : State) (p : Parameters) : (s.applyParameters p).advanceHeld = s.advanceHeld := rfl
@[simp] theorem State.applyParameters_pending (s : State) (p : Parameters) : (s.applyParameters p).pending = s.pending := rfl

/-! ### ticked -/

@[simp] theorem State.ticked_intake (s : State) (a b c d : Bool) : (s.ticked a b c d).intake = s.intake := by
  simp [State.ticked]
@[simp] theorem State.ticked_params (s : State) (a b c d : Bool) : (s.ticked a b c d).params = s.params := by
  simp [State.ticked]
@[simp] theorem State.ticked_stagedLength (s : State) (a b c d : Bool) : (s.ticked a b c d).stagedLength = s.stagedLength := by
  simp [State.ticked]
@[simp] theorem State.ticked_flags (s : State) (a b c d : Bool) : (s.ticked a b c d).flags = s.flags := by
  simp [State.ticked]
@[simp] theorem State.ticked_flagEvent (s : State) (a b c d : Bool) : (s.ticked a b c d).flagEvent = s.flagEvent := by
  simp [State.ticked]
@[simp] theorem State.ticked_flagsOwed (s : State) (a b c d : Bool) : (s.ticked a b c d).flagsOwed = s.flagsOwed := by
  simp [State.ticked]
@[simp] theorem State.ticked_counters (s : State) (a b c d : Bool) : (s.ticked a b c d).counters = s.counters := by
  simp [State.ticked]
@[simp] theorem State.ticked_policies (s : State) (a b c d : Bool) : (s.ticked a b c d).policies = s.policies := by
  simp [State.ticked]
@[simp] theorem State.ticked_slots (s : State) (a b c d : Bool) : (s.ticked a b c d).slots = s.slots := by
  simp [State.ticked]
@[simp] theorem State.ticked_admissionCounter (s : State) (a b c d : Bool) : (s.ticked a b c d).admissionCounter = s.admissionCounter := by
  simp [State.ticked]
@[simp] theorem State.ticked_pendingOrder (s : State) (a b c d : Bool) : (s.ticked a b c d).pendingOrder = s.pendingOrder := by
  simp [State.ticked]
@[simp] theorem State.ticked_deferralList (s : State) (a b c d : Bool) : (s.ticked a b c d).deferralList = s.deferralList := by
  simp [State.ticked]
@[simp] theorem State.ticked_nodes (s : State) (a b c d : Bool) : (s.ticked a b c d).nodes = s.nodes := by
  simp [State.ticked]
@[simp] theorem State.ticked_scheduleRun (s : State) (a b c d : Bool) : (s.ticked a b c d).scheduleRun = s.scheduleRun := by
  simp [State.ticked]
@[simp] theorem State.ticked_inFlight (s : State) (a b c d : Bool) : (s.ticked a b c d).inFlight = s.inFlight := by
  simp [State.ticked]
@[simp] theorem State.ticked_receipts (s : State) (a b c d : Bool) : (s.ticked a b c d).receipts = s.receipts := by
  simp [State.ticked]
@[simp] theorem State.ticked_store (s : State) (a b c d : Bool) : (s.ticked a b c d).store = s.store := by
  simp [State.ticked]
@[simp] theorem State.ticked_owedOrder (s : State) (a b c d : Bool) : (s.ticked a b c d).owedOrder = s.owedOrder := by
  simp [State.ticked]
@[simp] theorem State.ticked_cycle (s : State) (a b c d : Bool) : (s.ticked a b c d).cycle = s.cycle := by
  simp [State.ticked]
@[simp] theorem State.ticked_startKind (s : State) (a b c d : Bool) : (s.ticked a b c d).startKind = s.startKind := by
  simp [State.ticked]
@[simp] theorem State.ticked_missRun (s : State) (a b c d : Bool) : (s.ticked a b c d).missRun = s.missRun := by
  simp [State.ticked]
@[simp] theorem State.ticked_lossRaised (s : State) (a b c d : Bool) : (s.ticked a b c d).lossRaised = s.lossRaised := by
  simp [State.ticked]
@[simp] theorem State.ticked_capture (s : State) (a b c d : Bool) : (s.ticked a b c d).capture = s.capture := by
  simp [State.ticked]
@[simp] theorem State.ticked_schedule (s : State) (a b c d : Bool) : (s.ticked a b c d).schedule = s.schedule := by
  simp [State.ticked]
@[simp] theorem State.ticked_delivery (s : State) (a b c d : Bool) : (s.ticked a b c d).delivery = s.delivery := by
  simp [State.ticked]
@[simp] theorem State.ticked_pending (s : State) (a b c d : Bool) : (s.ticked a b c d).pending = s.pending := by
  simp [State.ticked]

/-! ### restarted -/

@[simp] theorem State.restarted_intake (s : State) : (s.restarted).intake = s.intake := rfl
@[simp] theorem State.restarted_params (s : State) : (s.restarted).params = s.params := rfl
@[simp] theorem State.restarted_stagedLength (s : State) : (s.restarted).stagedLength = s.stagedLength := rfl
@[simp] theorem State.restarted_flags (s : State) : (s.restarted).flags = s.flags := rfl
@[simp] theorem State.restarted_flagEvent (s : State) : (s.restarted).flagEvent = s.flagEvent := rfl
@[simp] theorem State.restarted_counters (s : State) : (s.restarted).counters = s.counters := rfl
@[simp] theorem State.restarted_policies (s : State) : (s.restarted).policies = s.policies := rfl
@[simp] theorem State.restarted_admissionCounter (s : State) : (s.restarted).admissionCounter = s.admissionCounter := rfl
@[simp] theorem State.restarted_now (s : State) : (s.restarted).now = s.now := rfl
@[simp] theorem State.restarted_phase (s : State) : (s.restarted).phase = s.phase := rfl
@[simp] theorem State.restarted_cycle (s : State) : (s.restarted).cycle = s.cycle := rfl
@[simp] theorem State.restarted_startKind (s : State) : (s.restarted).startKind = s.startKind := rfl
@[simp] theorem State.restarted_missRun (s : State) : (s.restarted).missRun = s.missRun := rfl
@[simp] theorem State.restarted_lossRaised (s : State) : (s.restarted).lossRaised = s.lossRaised := rfl
@[simp] theorem State.restarted_capture (s : State) : (s.restarted).capture = s.capture := rfl
@[simp] theorem State.restarted_sampled (s : State) : (s.restarted).sampled = s.sampled := rfl
@[simp] theorem State.restarted_qualifiedLevel (s : State) : (s.restarted).qualifiedLevel = s.qualifiedLevel := rfl
@[simp] theorem State.restarted_syncRun (s : State) : (s.restarted).syncRun = s.syncRun := rfl
@[simp] theorem State.restarted_levelChange (s : State) : (s.restarted).levelChange = s.levelChange := rfl
@[simp] theorem State.restarted_advanceHeld (s : State) : (s.restarted).advanceHeld = s.advanceHeld := rfl
@[simp] theorem State.restarted_pending (s : State) : (s.restarted).pending = s.pending := rfl

end Sys2Proof.Machine
end

