-- ==== Sys2Proof/Laws/Turns.lean ====
section
/-! SUPPORT. When the turn of an event comes: the handing of control places (R174), where the term of the statements and the
model's test say the same, and the events that R85 has taken before a choice. -/

namespace Sys2Proof.Machine

/-- The intake makes no claim exactly when it is empty or its first frame is a REQUEST that Admission would accept (R174). -/
theorem noIntakeClaim_iff {s : State} : s.noIntakeClaim ↔ s.intakeClaims = false := by
  unfold State.noIntakeClaim State.intakeClaims
  cases s.intake with
  | nil => simp
  | cons f rest =>
    cases hj : s.judgeRequest f with
    | accept p => simp [hj]
    | refuse code => simp [hj]

/-- No control place is being handed (R174). -/
theorem noHanding_iff {s : State} : s.noHanding ↔ s.handing = false := by
  unfold State.noHanding State.handing State.controlFree
  rw [noIntakeClaim_iff]
  by_cases h : s.controlUsed < 8 <;> simp [Config.controlPlaces, h, and_assoc]
  omega

/-- The terms of the statements about arrivals meet the commands' tests. -/
theorem receivingOn_iff {s : State} {line : Line} :
    s.receivingOn line ↔ s.canArrive line = true ∧ s.handing = false := by
  simp [State.receivingOn, State.canArrive, noHanding_iff, and_assoc]

theorem receivingReply_iff {s : State} : s.receivingReply ↔ s.canReply = true := by
  simp [State.receivingReply, State.canReply, State.replyDue, receivingOn_iff]

/-- While the field line is UP a frame that can arrive can be an ANSWER or a DEFER. -/
theorem receivingReply_of_receivingOn {s : State} (h : s.receivingOn .field) : s.receivingReply :=
  .inr h

/-- The commands of the present tick are those that wait in the queue before the next one. -/
theorem mem_thisTick {s : State} {c : Instr} : c ∈ s.thisTick ↔ s.comes c ∧ isTick c = false := by
  unfold State.comes State.thisTick
  generalize s.pending = l
  induction l with
  | nil => simp
  | cons b l ih =>
    rw [List.takeWhile_cons]
    cases hb : isTick b with
    | true =>
      refine ⟨fun h => absurd h (by simp), ?_⟩
      rintro ⟨⟨before, after, hl, hd⟩, hc⟩
      cases before with
      | nil => obtain ⟨rfl, -⟩ := List.cons.inj hl; simp [hb] at hc
      | cons x before =>
        obtain ⟨rfl, -⟩ := List.cons.inj hl
        have := hd b (.head _)
        simp [hb] at this
    | false =>
      simp only [Bool.not_false, if_true, List.mem_cons, ih]
      constructor
      · rintro (rfl | ⟨⟨before, after, rfl, hd⟩, hc⟩)
        · exact ⟨⟨[], l, rfl, fun _ h => nomatch h⟩, hb⟩
        · exact ⟨⟨b :: before, after, rfl, fun x hx => (List.mem_cons.mp hx).elim (· ▸ hb) (hd x)⟩, hc⟩
      · rintro ⟨⟨before, after, hl, hd⟩, hc⟩
        cases before with
        | nil => exact .inl (List.cons.inj hl).1.symm
        | cons x before =>
          obtain ⟨rfl, rest⟩ := List.cons.inj hl
          exact .inr ⟨⟨before, after, rest, fun y hy => hd y (.tail _ hy)⟩, hc⟩

/-- An arrival is no tick. -/
theorem isTick_of_isArrival {c : Instr} (h : isArrival c = true) : isTick c = false := by
  cases c <;> first | rfl | exact nomatch h

/-- A reply is an arrival. -/
theorem isArrival_of_isReply {c : Instr} (h : isReply c = true) : isArrival c = true := by
  cases c <;> first | rfl | exact nomatch h

/-- A reply waits exactly when the frame being received ends at this tick (R5, log 25). -/
theorem replyWaits_iff {s : State} : s.frameEnds ↔ s.replyWaits = true := by
  unfold State.frameEnds State.replyWaits
  rw [List.any_eq_true]
  refine exists_congr fun c => and_congr_left fun h => ?_
  rw [mem_thisTick, isTick_of_isArrival (isArrival_of_isReply h)]
  simp

/-- A place that is handed while the intake claims none goes to a notice (R174). -/
theorem notice_of_handing {s : State} (h : s.handing = true) (hi : s.intakeClaims = false) :
    s.flagsNoticeReady = true ∨ ∃ n, s.grantNoticeNode = some n := by
  unfold State.handing at h
  unfold State.flagsNoticeReady State.grantNoticeNode
  cases ho : s.owedOrder <;> cases hf : s.flagsOwed <;> simp_all

/-- In a settled state no control place is being handed (R174, log 3). -/
theorem handing_of_settled {s : State} (h : s.settled = true) : s.handing = false := by
  cases hh : s.handing with
  | false => rfl
  | true =>
    have hd : s.handingDue = false := by
      simp only [State.settled, Bool.not_eq_true', Bool.or_eq_false_iff] at h
      exact h.1.2
    simp only [State.handingDue, Bool.or_eq_false_iff] at hd
    cases hi : s.intakeClaims with
    | false =>
      rcases notice_of_handing hh hi with h | ⟨n, h⟩
      · exact absurd h (by simp [hd.1.2])
      · exact absurd hd.2 (by simp [h])
    | true =>
      have hc : s.controlFree = true := (Bool.and_eq_true _ _ ▸ (show (_ && _) = true from hh)).1
      have hn : s.intake.isEmpty = false := by
        cases ht : s.intake with
        | nil => simp [State.intakeClaims, ht] at hi
        | cons _ _ => rfl
      exact absurd hd.1.1 (by simp [State.takeReady, hi, hc, hn])

/-! ## The events before a choice (R85) -/

theorem eligibleSlot_iff {s : State} {i : Slot} : s.eligibleSlot i = true ↔ ∃ e, s.slot i = some e ∧ s.eligible e = true := by
  unfold State.eligibleSlot
  cases s.slot i <;> simp

/-- A barrier that stands now stood before the timers due (R88). -/
theorem barrierAhead_of_barrierNow {s : State} {spared : Option Slot} {e : Exchange}
    (h : s.barrierNow spared e.admissionSeq = true) : s.barrierAhead e = true := by
  unfold State.barrierNow at h
  unfold State.barrierAhead
  obtain ⟨j, hj, hb⟩ := List.any_eq_true.mp h
  refine List.any_eq_true.mpr ⟨j, hj, ?_⟩
  cases hs : s.slot j with
  | none => simp [hs] at hb
  | some b =>
    rw [hs] at hb
    exact (Bool.and_eq_true _ _ ▸ hb).1

/-- A WAITING exchange that is eligible needs no event more (R87). -/
theorem opensNow_of_eligible {s : State} {spared : Option Slot} {e : Exchange} (hw : e.state = .waiting)
    (h : s.eligible e = true) : s.opensNow spared e.node e.admissionSeq = true := by
  have left (n : Nat) (hn : n ∈ allNodes) (hb : s.noNodeBusy = true) : s.leftNow spared n = true := by
    obtain ⟨i, -, rfl⟩ := List.mem_map.mp hn
    have : (s.node (i.val + 1)).state.busy = false := by
      have hi : s.nodes[i.val] ∈ s.nodes.toList := Vector.mem_toList_iff.mpr (Vector.getElem_mem _)
      have := List.all_eq_true.mp hb _ hi
      have hn : s.node (i.val + 1) = s.nodes[i.val] := by
        have := i.isLt
        simp [State.node, nodeIndex, show i.val + 1 ≤ 62 by omega]
      simpa [hn] using this
    simp [State.leftNow, this]
  have barrier (hb : s.barrierAhead e = false) : s.barrierNow spared e.admissionSeq = false := by
    cases hx : s.barrierNow spared e.admissionSeq
    · rfl
    · rw [barrierAhead_of_barrierNow hx] at hb
      exact nomatch hb
  simp only [State.eligible, hw, Bool.and_eq_true, Bool.not_eq_true'] at h
  simp only [State.opensNow, Bool.and_eq_true, Bool.not_eq_true']
  refine ⟨?_, barrier h.2⟩
  by_cases h63 : e.node = Config.broadcastNode
  · simp only [h63, if_true, List.all_eq_true] at h ⊢
    exact fun n hn => left n hn h.1
  · simp only [h63, if_false] at h ⊢
    simp only [State.idleNow, h.1, Bool.true_or]

/-- What is eligible needs no event more (R87). -/
theorem eligibleNow_of_eligible {s : State} {spared : Option Slot} {i : Slot} {e : Exchange} (hs : s.slot i = some e)
    (h : s.eligible e = true) : s.eligibleNow spared i = true := by
  simp only [State.eligibleNow, hs]
  cases hst : e.state <;> simp only
  · exact opensNow_of_eligible hst h
  all_goals exact absurd h (by simp [State.eligible, hst])

/-- A frame that may still be taken at this tick stands in the intake at a due head completion, or waits to arrive (R21). -/
theorem mem_coming {s : State} {f : Frame} :
    f ∈ s.coming ↔
      s.headPort.completing s.now = true ∧ f ∈ s.intake ∨ ∃ c, s.comes c ∧ headFrame c = some f := by
  unfold State.coming
  have (c : Instr) (h : headFrame c = some f) : isTick c = false := by cases c <;> first | rfl | exact nomatch h
  rw [List.mem_append, List.mem_filterMap]
  refine or_congr ?_ (exists_congr fun c => and_congr_left fun h => by rw [mem_thisTick, this c h]; simp)
  by_cases h : s.headPort.completing s.now = true <;> simp [h]

/-- A firing due, as a member of the states after a state (R168). -/
theorem mem_withFirings {s t : State} :
    t ∈ s.withFirings ↔ t = s ∨ ∃ k live, s.firesAt k s.phase = some live ∧ t = s.fire k live := by
  simp [State.withFirings, allScheduled, eq_comm]

/-- The states that the clock events of this tick leave: the held advance, a SYNC edge, both in either order, and the firings due
after them (R159, R168). -/
theorem mem_clockStates {s t : State} :
    t ∈ s.clockStates ↔
      t ∈ s.afterAdvance.withFirings ∨ t ∈ s.afterEdge.withFirings ∨ t ∈ s.afterAdvance.afterEdge.withFirings ∨
        t ∈ s.afterEdge.afterAdvance.withFirings := by
  simp [State.clockStates]

/-- What holds when no event of this tick that can make an exchange eligible is still to be taken (R85). -/
theorem yetToCome_iff {s : State} {spared : Option Slot} :
    s.yetToCome spared = false ↔
      s.takeReady = false ∧ s.firstFiring = none ∧ s.fieldFrameComes = false ∧ s.requestComes spared = false ∧
        (s.advanceHeld = true ∨ s.edgeDue = true → ∀ f ∈ s.coming, changesFirings f = false) ∧
        ∀ t, t = s ∨ t ∈ s.clockOutcomes → ∀ i, t.eligibleNow spared i = true → s.eligibleSlot i = true := by
  unfold State.yetToCome
  simp only [Bool.or_eq_false_iff, Option.isSome_eq_false_iff, Option.isNone_iff_eq_none, and_assoc]
  refine and_congr_right fun _ => and_congr_right fun _ => and_congr_right fun _ => and_congr_right fun _ =>
    and_congr ?_ ?_
  · rw [Bool.and_eq_false_iff, List.any_eq_false, ← Bool.or_eq_true]
    cases s.advanceHeld || s.edgeDue <;> simp
  · rw [List.any_eq_false]
    refine ⟨fun h t ht i hi => ?_, fun h t ht => ?_⟩
    · have := List.any_eq_false.mp (Bool.eq_false_iff.mpr (h t (List.mem_cons.mpr ht))) i (List.mem_finRange i)
      simpa [hi] using this
    · rw [Bool.not_eq_true, List.any_eq_false]
      intro i _ hi
      rw [Bool.and_eq_true] at hi
      simp [h t (List.mem_cons.mp ht) i hi.1] at hi

end Sys2Proof.Machine
end

