-- ==== Sys2Proof/Tests/Slice0.lean ====
section
/-! SUPPORT. Tests: the smoke test of `Instr.wf`, single steps from the manual's worked examples, and for every statement with
hypotheses a state and operands that meet them. -/

namespace Sys2Proof.Tests

open Sys2Proof.Machine

-- One theorem at a time: many at once need more threads than the memory limit of the check allows.
set_option Elab.async false

/-! ## Well-formed commands -/

theorem test_wf_refuses_request_node : (Instr.requestArrival 64 0 0 []).wf = false := by decide +kernel

theorem test_wf_refuses_request_length : (Instr.requestArrival 5 0 0 (List.replicate 241 0)).wf = false := by decide +kernel

theorem test_wf_refuses_directive_length : (Instr.directiveArrival 0 1 (List.replicate 241 0)).wf = false := by decide +kernel

theorem test_wf_refuses_answer_node :
    (Instr.answerArrival 0 0 0 []).wf = false ∧ (Instr.answerArrival 63 0 0 []).wf = false := by decide +kernel

theorem test_wf_refuses_answer_length : (Instr.answerArrival 5 0 0 (List.replicate 201 0)).wf = false := by decide +kernel

theorem test_wf_refuses_defer_node : (Instr.deferArrival 63 0 0 []).wf = false := by decide +kernel

theorem test_wf_refuses_defer_length : (Instr.deferArrival 5 0 0 [1]).wf = false := by decide +kernel

theorem test_wf_refuses_report_node : (Instr.reportArrival 0 0 0 []).wf = false := by decide +kernel

theorem test_wf_refuses_report_length : (Instr.reportArrival 5 0 0 (List.replicate 201 0)).wf = false := by decide +kernel

theorem test_wf_refuses_good_bytes :
    (Instr.malformedFrame .head (frameBytes ⟨.directive, 0, 1, 0x01, []⟩)).wf = false := by decide +kernel

theorem test_wf_refuses_quiet_node :
    (Instr.quietUntilReached 0).wf = false ∧ (Instr.quietUntilReached 63).wf = false := by decide +kernel

theorem test_wf_accepts :
    (Instr.requestArrival 63 255 0 (List.replicate 240 0)).wf = true ∧ (Instr.deferArrival 62 0 0 [0, 0, 0, 1]).wf = true ∧
      (Instr.malformedFrame .field []).wf = true := by decide +kernel

/-! ## The states the tests start from -/

/-- A port of an UP line with a start pattern seen. -/
def port (run : Nat) (tx : Option Transmission) : Port :=
  { up := true, run := run, receive := .receiving, tx := tx }

/-- A transmission that is complete at time 0. -/
def sent : Transmission := { bytes := [], completes := 0 }

/-- After RESET#, with both lines UP and receiving. -/
def lines : State := { State.reset with headPort := port 0 none, fieldPort := port 0 none }

/-- Entry A of section 3.2.1. -/
def entryA : Policy :=
  { key := { node := 7, function := some 0x41 }, nominal := 10, minimum := 8, maximum := 16, longAction := .deliver,
    shortAction := .deliver, answerWindow := 2000, lifetime := 50000, deferLimit := 3, silentLimit := 1,
    baseDelay := 500, backoff := .doubling }

/-- Entry B of section 3.2.1. -/
def entryB : Policy :=
  { entryA with
    key := { node := 7, function := none }, nominal := 4, minimum := 4, maximum := 4, answerWindow := 1500,
    lifetime := 40000, deferLimit := 2, baseDelay := 400, backoff := .flat }

/-- Entry C of section 3.2.1. -/
def entryC : Policy :=
  { entryA with
    key := { node := 0, function := some 0x41 }, minimum := 0, maximum := 32, answerWindow := 3000, lifetime := 80000,
    deferLimit := 1, silentLimit := 2, baseDelay := 800 }

/-- Entry D of section 3.2.1. -/
def entryD : Policy :=
  { entryA with
    key := { node := 0, function := none }, nominal := 0, minimum := 0, maximum := 200, answerWindow := 5000,
    lifetime := 100000, deferLimit := 0, silentLimit := 0, baseDelay := 1000, backoff := .flat }

/-- Entry E of section 3.2.1. -/
def entryE : Policy :=
  { entryD with
    key := { node := 63, function := none }, maximum := 0, answerWindow := 50, lifetime := 5000, baseDelay := 10 }

/-- Entry F of section 7.8. -/
def entryF : Policy :=
  { entryA with
    key := { node := 9, function := some 0x30 }, nominal := 20, minimum := 16, maximum := 24, longAction := .truncate,
    shortAction := .silence, answerWindow := 3000, lifetime := 200000, silentLimit := 2, baseDelay := 1000 }

/-- A record newly admitted at time 0. -/
def waiting (o : Origin) (node : Nat) (p : Policy) : Exchange :=
  { state := .waiting, origin := o, node := node, function := 0x41, buffer := [1, 2, 3, 4], admissionSeq := 0,
    admissionTime := 0, admissionCycle := 0, snapshot := p, lifetimeEnd := 0, lifetimeArmed := true, issueCount := 0,
    deferCount := 0, silentCount := 0, firstIssue := none, lastCompletion := none, answerDue := none, reissueDue := none,
    outcome := none, answer := none, truncated := false }

/-- An issued record with its answer window open. -/
def issued (o : Origin) (node : Nat) (p : Policy) (completed due : Mono) : Exchange :=
  { waiting o node p with state := .issued, issueCount := 1, lastCompletion := some completed, answerDue := some due }

/-- A state with an exchange in a slot and its node in a state. -/
def holding (s : State) (i : Slot) (e : Exchange) (st : NodeState) : State :=
  (s.setSlot i (some e)).setNodeState e.node st

/-- The state a command leaves. -/
def left (c : Instr) (s : State) : State :=
  match exec c s with
  | .next t => t
  | .fault f => nomatch f
  | .refused _ => s

/-! ## Frames -/

/-- R2: with no byte covered the remainder is the initial value. -/
theorem test_check_of_nothing : checkValue [] = 0xFFFF := by decide +kernel

/-- The published check value of this generator and initial value over the digits 1 to 9 (PRESUMED: not in the manual). -/
theorem test_check_of_digits : checkValue [0x31, 0x32, 0x33, 0x34, 0x35, 0x36, 0x37, 0x38, 0x39] = 0x29B1 := by decide +kernel

/-- Section 1.7.1: the outcome record, byte by byte. -/
theorem test_outcome_record_of_the_example :
    outcomeRecord 3
        { waiting (.head 17) 7 entryA with
          state := .concluded, issueCount := 2, deferCount := 1, firstIssue := some ⟨812, 4150⟩,
          outcome := some .answered, buffer := List.replicate 12 0xAA,
          answer := some { length := 12, residue := 2, time := ⟨812, 9200⟩, latency := 840 } } =
      [0x00, 0x01, 3, 2, 1, 0, 0x03, 0x2C, 0x00, 0x10, 0x36, 0x03, 0x2C, 0x00, 0x23, 0xF0, 0x00, 0x00, 0x03, 0x48,
        0x00, 0x02, 12, 0x03] := by decide +kernel

/-- R5, check 2: a wrong check byte is a check error. -/
theorem test_wrong_check_byte : judgeBytes .field [0x28, 5, 1, 0, 0, 0, 0] = .checkError := by decide +kernel

/-! ## The head side -/

/-- R20: with no control place free, the fifth frame is discarded and raises HEAD OVERRUN. -/
theorem test_request_arrival_overrun :
    ((left (.requestArrival 7 5 0x41 [])
      { lines with
        intake := List.replicate 4 ⟨.directive, 0, 0, 0x01, []⟩
        delivery := List.replicate 8 (.control ⟨.notice, 0, 0, 2, [1]⟩) }).flag .headOverrun).raised = true := by decide +kernel

/-- R5, check 7: a DIRECTIVE is built with Node 0 and is kept. -/
theorem test_directive_arrival : (left (.directiveArrival 9 0x01 []) lines).intake = [⟨.directive, 0, 9, 0x01, []⟩] := by
  decide +kernel

/-- Section 3.2.1: the six lookups. -/
theorem test_lookups_of_the_example :
    [(7, 0x41), (7, 0x50), (12, 0x41), (12, 0x50), (63, 0x41), (63, 0x50)].map
        (fun q : Nat × Byte => lookupPolicy [entryD, entryC, entryB, entryA, entryE] q.1 q.2) =
      [some entryA, some entryB, some entryC, some entryD, some entryE, some entryE] := by decide +kernel

/-- R70: BAD TAG is the first check that fails when the node is bad too (section 5.8, tag 70 to node 0). -/
theorem test_take_request_bad_tag :
    (left .takeRequest { lines with intake := [⟨.request, 0, 70, 0x50, []⟩] }).delivery =
      [.control ⟨.refusal, 0, 70, 0x50, [0x06]⟩] := by decide +kernel

/-- Section 5.8, first row: the request is admitted into the lowest FREE slot under entry A. -/
theorem test_take_request_admitted :
    ((left .takeRequest
        { lines with
          policies := [entryD, entryA], now := 200000, admissionCounter := 7000,
          intake := [⟨.request, 7, 5, 0x41, [1]⟩] }).slot 0).map
      (fun e => (e.admissionSeq, e.lifetimeEnd, e.snapshot.baseDelay)) = some (7000, 250000, 500) := by decide +kernel

/-- Section 2.5.1: a raise after event number 41 takes 42. -/
theorem test_raise_of_the_example :
    (({ lines with flagEvent := 41 } : State).raiseFlag .storeFull).flag .storeFull =
      { raised := true, stamp := 42, count := 1 } := by decide +kernel

/-- R33: the flag event number wraps from 65535 to 1. -/
theorem test_flag_event_wraps : nextFlagEvent 65535 = 1 := by decide +kernel

/-- Section 2.5.1: clearing with stamp 42 after the raise of 43 answers newer and PARTIAL. -/
theorem test_clear_flags_newer :
    (left .clearFlags
        { (({ lines with flagEvent := 42 } : State).raiseFlag .storeFull) with
          intake := [⟨.directive, 0, 1, 0x05, [4, 0, 42]⟩] }).delivery =
      [.control ⟨.acknowledge, 0, 1, 0x05, [0x02, 0x01]⟩] := by decide +kernel

/-! ## The field side -/

/-- Node 9 of section 7.8 with its exchange in slot 6. -/
def example78 (now completed : Mono) (number : Byte) (defers silents : Nat) : State :=
  State.updateNode
    (holding { lines with now := now } 6
      { issued (.head 12) 9 entryF completed (completed + 3000) with deferCount := defers, silentCount := silents }
      (.occupied 6))
    9 fun n => { n with issueNumber := number }

/-- Section 7.8 at 501,000: the first DEFER waits the base delay. -/
theorem test_defer_first_of_the_example :
    ((left (.deferArrival 9 201 0x30 []) (example78 501000 500062 201 0 0)).slot 6).bind Exchange.reissueDue =
      some 502000 := by decide +kernel

/-- Section 7.8 at 502,400: the hint of 1,500 lies below the computed 2,000. -/
theorem test_defer_hint_of_the_example :
    ((left (.deferArrival 9 202 0x30 [0, 0, 0x05, 0xDC]) (example78 502400 502052 202 1 0)).slot 6).bind
      Exchange.reissueDue = some 504400 := by decide +kernel

/-- R102, R103, R56: a long answer under TRUNCATE keeps the full length in the record and the maximum in the buffer. -/
theorem test_answer_truncated :
    ((left (.answerArrival 9 205 0x30 (List.replicate 30 7)) (example78 510000 509500 205 2 2)).slot 6).map
      (fun e => (e.outcome, e.buffer.length, e.answer.map fun a => (a.length, a.residue, a.latency))) =
      some (some .truncated, 24, some (30, 10, 500)) := by decide +kernel

/-- R99: an ANSWER with another issue number is stale while its node's exchange is ISSUED. -/
theorem test_answer_stale :
    (left (.answerArrival 9 203 0x30 [1]) (example78 510000 509500 204 2 1)).counter .staleAnswers = 1 := by decide +kernel

/-- R108: a silence beyond the Silent Limit concludes NO ANSWER. -/
theorem test_window_expiry_beyond_the_limit :
    ((left (.answerWindowExpiry 6) (example78 507452 504452 203 2 2)).slot 6).bind Exchange.outcome = some .noAnswer := by
  decide +kernel

/-- Section 6.8: with a receipt owed, the receipt is the choice, and runs for 36 ticks. -/
theorem test_receipt_first :
    (left .receiptTransmitStart
        { holding lines 0 (waiting (.head 1) 7 entryA) .idle with
          now := 300052, pendingOrder := [0], receipts := [⟨30, 41, .accepted⟩] }).fieldPort.tx.map
      Transmission.completes = some 300088 := by decide +kernel

/-- Section 6.8: an ISSUE of 4 payload bytes runs for 52 ticks. -/
theorem test_issue_selection_time :
    (left .issueSelection
        { holding lines 0 (waiting (.schedule 0) 20 entryD) .idle with
          now := 300000, pendingOrder := [0] }).fieldPort.tx.map Transmission.completes = some 300052 := by decide +kernel

/-- Section 8.2.1: the four exchanges of node 7. -/
def example821 : State :=
  let e (o : Origin) (seq : AdmissionSeq) : Exchange := { waiting o 7 entryA with admissionSeq := seq }
  let s1 := (lines.setSlot 1 (some (e (.head 4) 3010))).setSlot 6 (some (e (.head 9) 3014))
  let s2 := s1.setSlot 8 (some { e (.head 11) 3005 with state := .concluded, outcome := some .answered })
  { holding s2 4 { e (.schedule 2) 3012 with state := .issued, answerDue := some 712000 } (.occupied 4) with
    now := 710500, pendingOrder := [1, 6], delivery := [.conclusion 8], intake := [⟨.directive, 0, 3, 0x13, [7]⟩] }

/-- Section 8.2.1: the order of the items, the ACKNOWLEDGE last with a count of 3. -/
theorem test_cancel_node_of_the_example :
    (left .cancelNode example821).delivery =
      [.conclusion 8, .conclusion 1, .conclusion 4, .conclusion 6,
        .control ⟨.acknowledge, 0, 3, 0x13, [0x00, 3]⟩] := by decide +kernel

/-- Section 8.2.1: node 7 is QUIET until 712,000. -/
theorem test_cancel_node_quiet : ((left .cancelNode example821).node 7).state = .quiet (some 712000) := by decide +kernel

/-- Node 30 of section 9.10 before the Post Grant. -/
def example910 : State :=
  let r (sequence : Byte) : StoredReport := ⟨false, 30, sequence, 0x20, ⟨0, 0⟩, []⟩
  State.updateNode
    { lines with
      store := ((lines.store.set 13 (some (r 44))).set 14 (some (r 42))).set 15 (some (r 43))
      intake := [⟨.directive, 0, 5, 0x18, [30, 2]⟩] }
    30 fun n => { n with parkOrder := [14, 15, 13], notice := .sent, lastSequence := some 44 }

/-- Section 9.10: Post Grant (30, 2) releases 42 and then 43, and reads 2 and 0. -/
theorem test_post_grant_of_the_example :
    (left .postGrant example910).delivery =
      [.report 14, .report 15, .control ⟨.acknowledge, 0, 5, 0x18, [0x00, 2, 0]⟩] := by decide +kernel

/-- Section 9.10: what is left is owed again. -/
theorem test_post_grant_rejoins : (left .postGrant example910).owedOrder = [30] := by decide +kernel

/-! ## The clock and the schedule -/

/-- The clock of section 10.8 with an edge due. -/
def example108 (phase : Nat) (kind : StartKind) (cycle : CycleCount) : State :=
  { lines with
    params := { lines.params with clockMode := .synced, syncMissLimit := 2 }, phase := phase, cycle := cycle,
    startKind := kind, sampled := true, qualifiedLevel := false, syncRun := 3, levelChange := some .edge }

/-- Section 10.8 at 1,009,980: an on-time edge begins cycle 101 as SYNC. -/
theorem test_edge_on_time :
    (fun t : State => (t.cycle, t.phase, t.startKind, t.capture.map Capture.classification))
        (left .syncEdge (example108 9980 .reset 100)) = (101, 0, .sync, some .onTime) := by decide +kernel

/-- Section 10.8 at 1,020,000: a late edge realigns cycle 102. -/
theorem test_edge_late :
    (fun t : State => (t.cycle, t.phase, t.startKind, t.capture.map Capture.classification))
        (left .syncEdge (example108 20 .flywheel 102)) = (102, 0, .flywheel, some .late) := by decide +kernel

/-- Section 10.8 at 1,044,000: the second flywheel start in a row raises SYNC LOST. -/
theorem test_flywheel_raises_sync_lost :
    (fun t : State => (t.missRun, t.lossRaised, (t.flag .syncLost).raised))
        (left .cycleStart { example108 9999 .flywheel 104 with levelChange := none, missRun := 1, advanceHeld := true }) =
      (2, true, true) := by decide +kernel

/-- Entry 3 of section 11.9, armed and staged, and slot 10 still WAITING. -/
def example119 : State :=
  let fields : ScheduleFields := ⟨.periodic, 23, 0x41, 7000, 1, 0, []⟩
  let s := lines.setSlot 10 (some { waiting (.schedule 0) 20 entryC with admissionCycle := 400 })
  { s with
    params := { s.params with clockMode := .synced }, cycle := 400, phase := 5000, flagEvent := 60, sampled := true,
    syncRun := 3, levelChange := some .edge, pendingOrder := [10],
    schedule := s.schedule.set 3
      { ScheduleEntry.initial with
        state := .armed, live := some fields, staged := some { fields with phase := 6500 } } }

/-- Section 11.9: the early edge cuts entry 3 and promotes its copy. -/
theorem test_early_edge_cuts :
    (fun e : ScheduleEntry => (e.cuts, e.live.map ScheduleFields.phase, e.staged.isSome))
        ((left .syncEdge example119).entry 3) = (1, some 6500, false) := by decide +kernel

/-- Section 11.9: CYCLE SLIP takes stamp 61 and SCHEDULE CUT stamp 62. -/
theorem test_early_edge_stamps :
    (fun t : State => ((t.flag .cycleSlip).stamp, (t.flag .scheduleCut).stamp)) (left .syncEdge example119) = (61, 62) := by
  decide +kernel

/-- R147, R149: a tick moves the count and the phase. -/
theorem test_tick_moves_the_clocks :
    (fun t : State => (t.now, t.phase)) (left (.tick false true true false) lines) = (1, 1) := by decide +kernel

/-- Log 3: with a frame to take first, the tick is turned away. -/
theorem test_tick_waits :
    (left (.tick false true true false) { lines with intake := [⟨.directive, 0, 5, 0x01, []⟩] }).now = 0 := by decide +kernel

/-! ## Events that fall together -/

/-- R125: the frame whose last byte is taken before the change to DOWN, and itself after it, is stale. -/
theorem test_answer_after_down_is_stale :
    (left (.answerArrival 9 204 0x30 [1])
      (left .fieldLineDown
        { example78 510000 509500 204 2 1 with
          fieldPort := port 2000 none, pending := [.answerArrival 9 204 0x30 [1]] })).counter .staleAnswers = 1 := by
  decide +kernel

/-- R5, R7, R125: the port of the line that went DOWN receives nothing more; the frame that had arrived is judged before the next
tick, be a notice of the loss handed a place or not. -/
theorem test_arrived_frame_is_judged_at_its_tick :
    (fun s : State =>
        (s.fieldPort.receive, s.handing, s.settled, (left (.answerArrival 9 204 0x30 [1]) s).counter .staleAnswers,
          (left (.answerArrival 9 204 0x30 [1]) s).fieldPort.receive))
      (left .fieldLineDown
        { example78 510000 509500 204 2 1 with
          fieldPort := port 2000 none, params := { lines.params with alertMask := 63 }
          pending := [.answerArrival 9 204 0x30 [1]] }) = (.arrived, true, false, 1, .idle) := by
  decide +kernel

/-- R124: a frame that no command of the change's own tick brings is cut short, and arrives no more. -/
theorem test_no_frame_arrives_while_down :
    (fun s : State => (s.fieldPort.receive, (left (.answerArrival 9 204 0x30 [1]) s).counter .staleAnswers))
      (left .fieldLineDown
        { example78 510000 509500 204 2 1 with
          fieldPort := port 2000 none
          pending := [.tick false true false false, .answerArrival 9 204 0x30 [1]] }) = (.idle, 0) := by
  decide +kernel

/-- R115, R159: an ANSWER taken between the SYNC edge that begins a cycle and the tick's advance reads the new cycle at phase 0; the
advance then carries the phase to 1. -/
theorem test_answer_between_edge_and_advance :
    (fun t : State =>
        (((t.slot 6).bind Exchange.answer).map AnswerFields.time, (left .cycleStart t).cycle, (left .cycleStart t).phase))
      (left (.answerArrival 9 204 0x30 (List.replicate 20 7))
        (left .syncEdge
          { example78 510000 509500 204 0 0 with
            params := { lines.params with clockMode := .synced }, cycle := 100, phase := 9999, advanceHeld := true
            sampled := true, levelChange := some .edge })) = (some ⟨101, 0⟩, 101, 1) := by
  decide +kernel

/-- R5: with the change taken before the last byte, the frame is cut short and counted. -/
theorem test_down_cuts_the_frame :
    (left .fieldLineDown { lines with fieldPort := port 2000 none }).counter .fieldMalformed = 1 := by
  decide +kernel

/-- R30, R159: new SYNC parameters taken at the tick of an edge leave the edge to be taken. -/
theorem test_set_parameters_keeps_the_edge :
    (left .setParameters
      { example108 9980 .reset 100 with
        intake := [⟨.directive, 0, 1, 0x02, parameterImage { lines.params with syncFilter := 8 }⟩] }).edgeDue = true := by
  decide +kernel

/-- R170: where the tick was taken first, the entry fires before the edge. -/
theorem test_edge_waits_for_the_firing :
    (fun t : State => (t.phase, t.capture.isNone)) (left .syncEdge { example119 with phase := 7000 }) = (7000, true) := by
  decide +kernel

/-- Nodes 7 and 8 HELD by exchanges with their reissue-dues reached, the younger one READY already. -/
def twoReissues : State :=
  let s := holding lines 0 { waiting (.head 1) 7 entryA with state := .deferred, reissueDue := some 0 } (.held 0)
  { holding s 1 { waiting (.head 2) 8 entryA with state := .ready, admissionSeq := 1 } (.held 1) with
    pendingOrder := [1], deferralList := [0] }

/-- R85: the choice waits for the other reissue-due of its tick, and the older exchange is selected. -/
theorem test_one_choice_after_both_reissues :
    (twoReissues.fieldStart, (left (.reissueDue 0) twoReissues).fieldStart) = (none, some (.exchange 0)) := by
  decide +kernel

/-- R85, R88: two nodes leave QUIET now, which together make the broadcast of slot 0 eligible; the READY exchange waits. -/
theorem test_one_choice_after_both_quiets :
    (fun s : State =>
        (s.fieldChoice, s.fieldStart,
          (left (.quietUntilReached 6) (left (.quietUntilReached 5) s)).fieldStart))
      { ((holding (holding lines 0 { waiting (.head 1) 63 entryE with lifetimeEnd := 9 } .idle) 1
          { waiting (.head 2) 8 entryA with state := .ready, admissionSeq := 1 } (.held 1)).setNodeState 5
          (.quiet (some 0))).setNodeState 6 (.quiet (some 0)) with pendingOrder := [0, 1] } =
      (some (.exchange 1), none, some (.exchange 0)) := by
  decide +kernel

/-- R174, R178: a free place goes to the notice that is owed before a frame that arrives. -/
theorem test_arrival_waits_for_the_notice :
    (fun s : State =>
        ((left (.directiveArrival 9 0x01 []) s).intake.length,
          (left (.directiveArrival 9 0x01 []) (left .flagsRaisedNoticePlaced s)).intake.length))
      { lines with flagsOwed := true } = (0, 1) := by
  decide +kernel

/-- R174: the field line's loss raises a flag whose notice is handed the free place at that event; the lifetime end of the
exchange that became READY is turned away until the notice is placed, so the notice stands ahead of the conclusion. -/
theorem test_lifetime_end_waits_for_the_notice :
    (fun s : State =>
        ((left (.lifetimeEnd 6) s).delivery.length,
          (left (.lifetimeEnd 6) (left .flagsRaisedNoticePlaced s)).delivery.map Item.isControl))
      (left .fieldLineDown
        { example78 510000 509500 204 0 0 with
          fieldPort := port 2000 none, params := { lines.params with alertMask := 63 } }) = (0, [true, false]) := by
  decide +kernel

/-- An exchange that can be selected, to node 7, and an older WAITING broadcast that node 9 holds back. -/
def heldBack : State :=
  let s := holding lines 0 { waiting (.head 1) 7 entryA with state := .ready, admissionSeq := 5, lifetimeEnd := 9 } (.held 0)
  let u := holding s 6 { issued (.head 12) 9 entryF 0 3000 with lifetimeEnd := 9 } (.occupied 6)
  { u.setSlot 1 (some { waiting (.head 2) 63 entryE with admissionSeq := 4, lifetimeEnd := 9 }) with pendingOrder := [1, 0] }

/-- R85: an ANSWER of the same tick, which lets the broadcast be eligible, is taken before the choice. -/
theorem test_choice_waits_for_the_answer :
    (fun c : Instr =>
        ((heldBack).fieldStart, ({ heldBack with pending := [c] } : State).fieldStart, (left c heldBack).fieldStart))
      (.answerArrival 9 0 0x30 (List.replicate 20 7)) =
      (some (.exchange 0), none, some (.exchange 1)) := by
  decide +kernel

/-- R85, R92: a cancel of the same tick that lowers a barrier is taken before the choice; one of the exchange chosen need not
be, and a frame behind the next tick is of no concern. -/
theorem test_choice_and_cancels :
    (fun s : State =>
        [[Instr.directiveArrival 9 0x12 [2]], [.directiveArrival 9 0x12 [1]],
          [.tick false true true false, .directiveArrival 9 0x12 [2]]].map
          fun l => ({ s with pending := l } : State).fieldStart)
      { (heldBack.setSlot 3 (some { waiting (.head 4) 20 entryD with admissionSeq := 6, lifetimeEnd := 9 })) with
        pendingOrder := [1, 0, 3] } =
      [none, some (.exchange 0), some (.exchange 0)] := by
  decide +kernel

/-- R85: a REQUEST behind one that its node holds back is admitted, and eligible, before the choice. -/
theorem test_choice_waits_for_the_second_request :
    (fun s : State =>
        (s.fieldStart, (left .takeRequest s).fieldStart, (left .takeRequest (left .takeRequest s)).fieldStart))
      { holding lines 0 { waiting (.schedule 1) 7 entryA with state := .ready, lifetimeEnd := 9 } (.held 0) with
        policies := [entryD], pendingOrder := [0], scheduleRun := 4
        intake := [⟨.request, 7, 5, 0x41, []⟩, ⟨.request, 20, 6, 0x41, []⟩] } =
      (none, none, some (.exchange 2)) := by
  decide +kernel

/-- R85, R159, R168: the tick's advance, made after its SYNC edge, reaches the phase of entry 3; the edge, the advance and the firing
are taken before the choice. -/
theorem test_choice_waits_for_the_firing_after_an_edge :
    (fun s : State =>
        (s.fieldStart, (left .syncEdge s).fieldStart, (left .cycleStart (left .syncEdge s)).fieldStart,
          (left (.scheduleFiring 3) (left .cycleStart (left .syncEdge s))).fieldStart))
      { holding lines 0 { waiting (.head 1) 7 entryA with state := .ready, lifetimeEnd := 9 } (.held 0) with
        policies := [entryD], pendingOrder := [0], phase := 6999, advanceHeld := true, levelChange := some .edge
        schedule := lines.schedule.set 3
          { ScheduleEntry.initial with state := .armed, live := some ⟨.periodic, 20, 0x41, 7000, 1, 0, [1]⟩ } } =
      (none, none, none, some (.exchange 1)) := by
  decide +kernel

/-- R85, R61, R76: the slot that an OUTCOME's completion frees lets a waiting REQUEST be admitted before the choice. -/
theorem test_choice_waits_for_the_release :
    (fun s : State =>
        (s.fieldStart, (left .outcomeTransmitCompletion s).fieldStart,
          (left .takeRequest (left .outcomeTransmitCompletion s)).fieldStart))
      { holding lines 0 { waiting (.schedule 1) 7 entryA with state := .ready, lifetimeEnd := 9 } (.held 0) with
        slots := (((Vector.replicate 24 (some { waiting (.head 1) 7 entryA with lifetimeEnd := 9 })).set 0
          (some { waiting (.schedule 1) 7 entryA with state := .ready, lifetimeEnd := 9 })).set 1
          (some { waiting (.head 2) 5 entryA with state := .concluded, lifetimeArmed := false, outcome := some .sent }))
        params := { lines.params with scheduleReserve := 0 }
        policies := [entryD], pendingOrder := [0], scheduleRun := 4, headPort := port 0 (some sent)
        delivery := .conclusion 1 :: List.replicate 8 (.control ⟨.notice, 0, 0, 2, [1]⟩), intake := [⟨.request, 20, 6, 0x41, []⟩] } =
      (none, none, some (.exchange 1)) := by
  decide +kernel

/-! ## States that meet the laws -/

/-- A test that holds of every open exchange. -/
theorem slots_all (s : State) (p : Slot → Exchange → Bool)
    (h : (allSlots.all fun i => (s.slot i).all (p i)) = true) (i : Slot) (e : Exchange) (he : s.slot i = some e) :
    p i e = true := by
  have hi := List.all_eq_true.mp h i (List.mem_finRange i)
  simpa [he] using hi

/-- An open exchange that satisfies a test, as a Bool. -/
def someSlot (s : State) (i : Slot) (p : Exchange → Bool) : Bool := (s.slot i).any p

theorem someSlot_iff (s : State) (i : Slot) (p : Exchange → Bool) :
    someSlot s i p = true ↔ ∃ e, s.slot i = some e ∧ p e = true := by
  cases h : s.slot i <;> simp [someSlot, h]

/-- A stored report that satisfies a test, as a Bool. -/
def someStored (s : State) (k : StoreIndex) (p : StoredReport → Bool) : Bool := (s.stored k).any p

theorem someStored_iff (s : State) (k : StoreIndex) (p : StoredReport → Bool) :
    someStored s k p = true ↔ ∃ r, s.stored k = some r ∧ p r = true := by
  cases h : s.stored k <;> simp [someStored, h]

/-- A part at work: exchanges in every state, a QUIET node, a PARKED and a RELEASED report, items and timers. -/
def busy : State :=
  { lines with
    policies := [entryD, entryA]
    now := 100000
    intake := [⟨.directive, 0, 9, 0x13, [5]⟩]
    slots :=
      ((((((lines.slots.set 0 (some (issued (.head 1) 5 { entryA with silentLimit := 0 } 99000 100000))).set 1
        (some { issued (.head 2) 6 entryA 99000 101000 with admissionSeq := 6 })).set 2
        (some { waiting (.head 3) 63 entryE with state := .issued, issueCount := 1, admissionSeq := 1 })).set 3
        (some { waiting (.schedule 3) 20 entryC with
          state := .concluded, outcome := some .noAnswer, lifetimeArmed := false, admissionSeq := 2 })).set 4
        (some { waiting (.head 4) 7 entryA with
          state := .deferred, reissueDue := some 102000, admissionSeq := 3 })).set 5
        (some { waiting (.head 5) 8 entryD with state := .ready, admissionSeq := 4 })).set 6
        (some { waiting (.head 6) 5 entryB with admissionSeq := 5 })
    admissionCounter := 7
    pendingOrder := [5, 6]
    deferralList := [4]
    nodes :=
      changeNode (changeNode (changeNode (changeNode (changeNode (changeNode (changeNode lines.nodes 5
        fun n => { n with state := .occupied 0 }) 6
        fun n => { n with state := .occupied 1 }) 7
        fun n => { n with state := .held 4 }) 8
        fun n => { n with state := .held 5 }) 9
        fun n => { n with state := .quiet (some 200000) }) 10
        fun n => { n with credit := 15 }) 11
        fun n => { n with parkOrder := [0], notice := .owed }
    inFlight := some (.issue 2 63 0 50)
    fieldPort := port 0 (some { bytes := [], completes := 200000 })
    store :=
      (lines.store.set 0 (some ⟨false, 11, 1, 0x20, ⟨0, 0⟩, [1]⟩)).set 1 (some ⟨true, 10, 2, 0x20, ⟨0, 0⟩, []⟩)
    owedOrder := [11]
    delivery := [.conclusion 3, .report 1]
    schedule := lines.schedule.set 3
      { ScheduleEntry.initial with
        state := .armed, live := some ⟨.periodic, 20, 0x41, 7000, 1, 0, []⟩, fired := true, openSlot := some 3 }
    pending := [.cancelNode] }

theorem busy_clockLaw : busy.ClockLaw :=
  ⟨by decide +kernel, by decide +kernel, by decide +kernel⟩

theorem busy_lineLaw : busy.LineLaw :=
  ⟨fun line => by cases line <;> decide +kernel, fun line => by cases line <;> decide +kernel, by decide +kernel,
    by decide +kernel⟩

theorem busy_capacityLaw : busy.CapacityLaw :=
  ⟨by decide +kernel, by decide +kernel, by decide +kernel, by decide +kernel⟩

theorem busy_policyLaw : busy.PolicyLaw :=
  ⟨by decide +kernel, by decide +kernel⟩

theorem busy_conclusionLaw : busy.ConclusionLaw := by
  refine ⟨fun i => ?_, by decide +kernel⟩
  have h : ∀ i : Slot, Item.conclusion i ∈ busy.delivery ↔
      someSlot busy i (fun e => e.state == .concluded) = true := by decide +kernel
  rw [h, someSlot_iff]
  simp

theorem busy_referenceLaw : busy.ReferenceLaw := by
  intro i k
  have h : ∀ (i : Slot) (k : EntryIndex), (busy.entry k).openSlot = some i ↔
      someSlot busy i (fun e => e.origin == .schedule k) = true := by decide +kernel
  rw [h, someSlot_iff]
  simp

/-- The head tag of an exchange. -/
def tagOf : Origin → Option Byte
  | .head tag => some tag
  | .schedule _ => none

theorem busy_tagLaw : busy.TagLaw := by
  intro i j e f tag he hf ho hp
  have h : ∀ i j : Slot,
      (busy.slot i).bind (fun e => tagOf e.origin) = none ∨
        (busy.slot i).bind (fun e => tagOf e.origin) ≠ (busy.slot j).bind (fun e => tagOf e.origin) ∨ i = j := by
    decide +kernel
  simpa [he, hf, ho, hp, tagOf] using h i j

theorem busy_exchangeLaw : busy.ExchangeLaw := by
  have hn : ∀ i e, busy.slot i = some e → 1 ≤ e.node ∧ e.node ≤ 63 := fun i e h => by
    simpa using slots_all busy (fun _ e => decide (1 ≤ e.node ∧ e.node ≤ 63)) (by decide +kernel) i e h
  have outside : ∀ n, ¬ n < 64 → busy.node n = NodeEntry.initial := fun n h =>
    State.node_outside busy (by omega)
  refine ⟨hn, fun n i => ?_, fun n i => ?_, fun i e h hb => ?_, fun i => ?_, by decide +kernel, fun i => ?_,
    by decide +kernel, by decide +kernel, fun k live h => ?_⟩
  · have h : ∀ (n : Fin 64) (i : Slot), (busy.node n.val).state = .occupied i ↔
        n.val ≠ 63 ∧ someSlot busy i (fun e => e.node == n.val && e.state == .issued) = true := by decide +kernel
    by_cases hlt : n < 64
    · rw [h ⟨n, hlt⟩ i, someSlot_iff]; simp
    · rw [outside n hlt]
      refine ⟨fun hx => (nomatch hx), fun ⟨_, e, he, hne, _⟩ => ?_⟩
      have := hn i e he
      omega
  · have h : ∀ (n : Fin 64) (i : Slot), (busy.node n.val).state = .held i ↔
        someSlot busy i (fun e => e.node == n.val && (e.state == .deferred || e.state == .ready)) = true := by
      decide +kernel
    by_cases hlt : n < 64
    · rw [h ⟨n, hlt⟩ i, someSlot_iff]; simp
    · rw [outside n hlt]
      refine ⟨fun hx => (nomatch hx), fun ⟨e, he, hne, _⟩ => ?_⟩
      have := hn i e he
      omega
  · have := slots_all busy
      (fun _ e => e.node != 63 || e.answerDue == none && e.state != .deferred && e.state != .ready)
      (by decide +kernel) i e h
    simpa [hb, and_assoc] using this
  · have h : ∀ i : Slot, i ∈ busy.pendingOrder ↔
        someSlot busy i (fun e => e.state == .waiting || e.state == .ready) = true := by decide +kernel
    rw [h, someSlot_iff]
    simp
  · have h : ∀ i : Slot, i ∈ busy.deferralList ↔ someSlot busy i (fun e => e.state == .deferred) = true := by
      decide +kernel
    rw [h, someSlot_iff]
    simp
  · have hk : ∀ k : EntryIndex, (busy.entry k).live.all scheduleFieldsValid = true ∧
        (busy.entry k).staged.all scheduleFieldsValid = true := by decide +kernel
    rcases h with h | h
    · simpa [h] using (hk k).1
    · simpa [h] using (hk k).2

theorem busy_reportLaw : busy.ReportLaw := by
  have hlow : ∀ k r, busy.stored k = some r → r.node < 64 := fun k r h => by
    have hk : ∀ k : StoreIndex, (busy.stored k).all (fun r => decide (r.node < 64)) = true := by decide +kernel
    simpa [h] using hk k
  have outside : ∀ n, ¬ n < 64 → busy.node n = NodeEntry.initial := fun n h =>
    State.node_outside busy (by omega)
  have node : ∀ n : Fin 64,
      (busy.node n.val).parkOrder.Nodup ∧ (busy.node n.val).credit ≤ Config.maxCredit ∧
        (0 < (busy.node n.val).credit → (busy.node n.val).parkOrder = []) ∧
        ((busy.node n.val).notice = .none ↔ (busy.node n.val).parkOrder = []) ∧
        (n.val ∈ busy.owedOrder ↔ (busy.node n.val).notice = .owed) := by decide +kernel
  have hnode : ∀ n : Nat,
      (busy.node n).parkOrder.Nodup ∧ (busy.node n).credit ≤ Config.maxCredit ∧
        (0 < (busy.node n).credit → (busy.node n).parkOrder = []) ∧
        ((busy.node n).notice = .none ↔ (busy.node n).parkOrder = []) ∧
        (n ∈ busy.owedOrder ↔ (busy.node n).notice = .owed) := fun n => by
    by_cases hlt : n < 64
    · exact node ⟨n, hlt⟩
    · rw [outside n hlt]
      refine ⟨by decide, by decide, by decide, by decide, fun h => ?_, fun h => nomatch h⟩
      have : ∀ m ∈ busy.owedOrder, m < 64 := by decide +kernel
      exact absurd (this n h) hlt
  refine ⟨fun n k => ?_, fun n => (hnode n).1, fun k => ?_, by decide +kernel, fun n => (hnode n).2.1,
    fun n => (hnode n).2.2.1, fun n => (hnode n).2.2.2.1, fun n => (hnode n).2.2.2.2, by decide +kernel⟩
  · have h : ∀ (n : Fin 64) (k : StoreIndex), k ∈ (busy.node n.val).parkOrder ↔
        someStored busy k (fun r => r.node == n.val && !r.released) = true := by decide +kernel
    by_cases hlt : n < 64
    · rw [h ⟨n, hlt⟩ k, someStored_iff]; simp
    · rw [outside n hlt]
      refine ⟨fun hx => (nomatch hx), fun ⟨r, hr, hne, _⟩ => ?_⟩
      have := hlow k r hr
      omega
  · have h : ∀ k : StoreIndex, Item.report k ∈ busy.delivery ↔ someStored busy k (fun r => r.released) = true := by
      decide +kernel
    rw [h, someStored_iff]

/-! ## Witnesses: for each statement with hypotheses, a state and operands that meet them, clause by clause -/

/-- A directive of number 9. -/
def directive9 (code : Byte) (arguments : List Byte) : Frame := ⟨.directive, 0, 9, code, arguments⟩

/-- A state with a directive first in the intake. -/
def asked (s : State) (code : Byte) (arguments : List Byte) : State :=
  { s with intake := [directive9 code arguments] }

theorem asked_first (s : State) (code : Byte) (arguments : List Byte) (h : s.controlUsed < 8) :
    (asked s code arguments).directiveFirst (directive9 code arguments) code :=
  ⟨rfl, rfl, rfl, h⟩

/-- A number of control records in the Delivery List. -/
def records (n : Nat) : List Item := List.replicate n (.control ⟨.notice, 0, 0, 2, [1]⟩)

/-- The last control place free. -/
def sevenUsed : State := { lines with delivery := records 7 }

/-- No control place free. -/
def eightUsed : State := { lines with delivery := records 8 }

/-- The busy part with no control place free. -/
def busyFull : State := { busy with delivery := records 8 }

theorem full_noHanding (s : State) (h : 8 ≤ s.controlUsed) : s.noHanding := .inl h

theorem sevenUsed_free : sevenUsed.controlUsed < 8 := by decide +kernel

theorem lines_slot (i : Slot) : lines.slot i = none := by
  have h : ∀ i, lines.slot i = none := by decide +kernel
  exact h i

theorem busy_exchangeLaw_intake (l : List Frame) (h : ∀ f ∈ l, f.node.toNat ≤ 63) :
    State.ExchangeLaw { busy with intake := l } :=
  { busy_exchangeLaw with intake := h }

/-! ### The step and the laws -/

theorem witness_StepRunsFrontCommand :
    busy.pending = .cancelNode :: [] ∧ lines.pending = [] := ⟨rfl, rfl⟩

/-- The step of the busy part: the Cancel Node first in its intake reaches slot 0. -/
theorem busy_step : ∃ t, step busy = .next t ∧ (t.slot 0).bind Exchange.outcome = some .cancelled :=
  ⟨left .cancelNode { busy with pending := [] }, rfl, by decide +kernel⟩

/-- A part at work with both lines UP, and one whose frame has arrived as the field line went DOWN. -/
theorem witness_StepKeepsClockAndLineLaws :
    busy.ClockLaw ∧ busy.LineLaw ∧ (∃ t, step busy = .next t) ∧
      State.LineLaw { lines with fieldPort := { Port.initial with receive := .arrived } } :=
  ⟨busy_clockLaw, busy_lineLaw, busy_step.imp fun _ h => h.1,
    fun line => by cases line <;> decide +kernel, fun line => by cases line <;> decide +kernel, by decide +kernel,
    by decide +kernel⟩

theorem witness_StepKeepsPolicyAndCapacityLaws : busy.PolicyLaw ∧ busy.CapacityLaw ∧ ∃ t, step busy = .next t :=
  ⟨busy_policyLaw, busy_capacityLaw, busy_step.imp fun _ h => h.1⟩

theorem witness_StepKeepsTagAndReferenceLaws : busy.TagLaw ∧ busy.ReferenceLaw ∧ ∃ t, step busy = .next t :=
  ⟨busy_tagLaw, busy_referenceLaw, busy_step.imp fun _ h => h.1⟩

theorem witness_StepKeepsExchangeLaws : busy.ExchangeLaw ∧ busy.ConclusionLaw ∧ ∃ t, step busy = .next t :=
  ⟨busy_exchangeLaw, busy_conclusionLaw, busy_step.imp fun _ h => h.1⟩

theorem witness_StepKeepsReportLaw : busy.ReportLaw ∧ ∃ t, step busy = .next t :=
  ⟨busy_reportLaw, busy_step.imp fun _ h => h.1⟩

/-! ### Frames and lines -/

/-- Both branches at their limits: 240 bytes to node 63, a DIRECTIVE, 200 bytes of node 62, and both lengths of a DEFER. -/
theorem witness_SentFrameIsReceived :
    (∃ f : Frame, f.kind = .request ∧ f.node.toNat = 63 ∧ f.payload.length = 240) ∧
      (∃ f : Frame, f.kind = .directive ∧ f.node = 0 ∧ f.node.toNat ≤ 63 ∧ f.payload.length ≤ 240) ∧
      (∃ f : Frame, f.kind = .answer ∧ f.node.toNat = 62 ∧ f.payload.length = 200) ∧
      (∃ f : Frame, f.kind = .report ∧ f.node.toNat = 1 ∧ f.payload.length = 200) ∧
      (∃ f : Frame, f.kind = .defer ∧ f.node.toNat = 1 ∧ f.payload.length = 0) ∧
      ∃ f : Frame, f.kind = .defer ∧ f.node.toNat = 62 ∧ f.payload.length = 4 :=
  ⟨⟨⟨.request, 63, 0, 0, List.replicate 240 0⟩, by decide +kernel⟩,
    ⟨⟨.directive, 0, 9, 0x01, []⟩, by decide +kernel⟩,
    ⟨⟨.answer, 62, 0, 0, List.replicate 200 0⟩, by decide +kernel⟩,
    ⟨⟨.report, 1, 0, 0, List.replicate 200 0⟩, by decide +kernel⟩,
    ⟨⟨.defer, 1, 0, 0, []⟩, by decide +kernel⟩,
    ⟨⟨.defer, 62, 0, 0, [0, 0, 5, 0xDC]⟩, by decide +kernel⟩⟩

/-- The check bytes are worked out by R2's division, outside the model. -/
theorem witness_GoodBytesAreOneFrame :
    judgeBytes .head [0x11, 0, 1, 1, 0, 0xBB, 0x06] = .good ⟨.directive, 0, 1, 1, []⟩ ∧
      judgeBytes .field [0x28, 62, 255, 0x41, 2, 9, 8, 0xB4, 0xCD] = .good ⟨.answer, 62, 255, 0x41, [9, 8]⟩ := by
  decide +kernel

/-- Bytes too few for a Length, one byte too few, wrong check bytes, and an answer from node 0 with good check bytes. -/
theorem witness_BadFrameCounted :
    lines.receivingOn .field ∧ lines.receivingOn .head ∧
      ([] : List Byte).length ≠ 7 + byteAt [] 4 ∧
      ([0x11, 0, 1, 1, 0, 0xBB] : List Byte).length ≠ 7 + byteAt [0x11, 0, 1, 1, 0, 0xBB] 4 ∧
      (let bytes : List Byte := [0x11, 0, 1, 1, 0, 0xBB, 0x07];
        bytes.length = 7 + byteAt bytes 4 ∧
          bytes.drop (5 + byteAt bytes 4) ≠ checkBytes (bytes.take (5 + byteAt bytes 4))) ∧
      (let bytes : List Byte := [0x28, 0, 0, 0, 0, 0x1B, 0x95];
        bytes.length = 7 + byteAt bytes 4 ∧
          bytes.drop (5 + byteAt bytes 4) = checkBytes (bytes.take (5 + byteAt bytes 4)) ∧
          ∀ f, judgeBytes .field bytes ≠ .good f) := by
  refine ⟨receivingOn_iff.mpr (by decide +kernel), receivingOn_iff.mpr (by decide +kernel), by decide, by decide, by decide +kernel, by decide +kernel, by decide +kernel,
    fun f hf => ?_⟩
  have h : judgeBytes .field [0x28, 0, 0, 0, 0, 0x1B, 0x95] = .malformed := by decide +kernel
  exact nomatch h.symm.trans hf

theorem witness_LineChanges :
    (∃ s : State, s.headPort.up = false ∧ s.headPort.run = 500 ∧ s.noHanding) ∧
      (∃ s : State, s.fieldPort.up = false ∧ s.fieldPort.run = 500 ∧ s.noHanding) ∧
      (∃ s : State, s.headPort.up = true ∧ s.headPort.run = 2000 ∧ s.headPort.receive ≠ .receiving ∧ s.noHanding) ∧
      (∃ s : State, s.headPort.up = true ∧ s.headPort.run = 2000 ∧ s.headPort.receive = .receiving ∧ s.noHanding) ∧
      (∃ s : State, s.headPort.up = true ∧ s.headPort.receive = .idle ∧ s.noHanding) ∧
      (∃ s : State, s.fieldPort.up = true ∧ s.fieldPort.receive = .idle ∧ s.noHanding) ∧
      (State.reset.port .head).up = false ∧ reaches .head (.directiveArrival 9 1 []) = true ∧
      (State.reset.port .field).up = false ∧ reaches .field (.answerArrival 62 1 2 []) = true ∧
      State.reset.fieldPort.receive ≠ .arrived :=
  ⟨⟨{ lines with headPort := { Port.initial with run := 500 } }, rfl, rfl, .inr ⟨.inl rfl, rfl, rfl⟩⟩,
    ⟨{ lines with fieldPort := { Port.initial with run := 500 } }, rfl, rfl, .inr ⟨.inl rfl, rfl, rfl⟩⟩,
    ⟨{ lines with headPort := { port 2000 none with receive := .idle } }, rfl, rfl, by decide, .inr ⟨.inl rfl, rfl, rfl⟩⟩,
    ⟨{ lines with headPort := port 2000 none }, rfl, rfl, rfl, .inr ⟨.inl rfl, rfl, rfl⟩⟩,
    ⟨{ lines with headPort := { port 0 none with receive := .idle } }, rfl, rfl, .inr ⟨.inl rfl, rfl, rfl⟩⟩,
    ⟨{ lines with fieldPort := { port 0 none with receive := .idle } }, rfl, rfl, .inr ⟨.inl rfl, rfl, rfl⟩⟩,
    rfl, rfl, rfl, rfl, by decide⟩

/-- The busy part with 2,000 ticks without field signal: a broadcast, an exchange at its Silent Limit, one below it, a QUIET, a
HELD and an IDLE node, a slot that is not ISSUED and a FREE one. -/
theorem witness_FieldLineDown :
    let s : State := { busyFull with fieldPort := { busy.fieldPort with run := 2000 } }
    s.ExchangeLaw ∧ ((true = true ↔ State.frameEnds { s with pending := [.answerArrival 5 1 2 []] }) ∧
      (false = true ↔ s.frameEnds)) ∧ s.fieldPort.up = true ∧ s.fieldPort.run = 2000 ∧ s.noHanding ∧
      s.fieldPort.receive = .receiving ∧ s.slot 23 = none ∧
      (∃ e, s.slot 3 = some e ∧ e.state ≠ .issued) ∧
      (∃ e, s.slot 2 = some e ∧ e.state = .issued ∧ e.node = 63) ∧
      (∃ e, s.slot 0 = some e ∧ e.state = .issued ∧ e.node ≠ 63 ∧ e.silentCount + 1 = e.snapshot.silentLimit + 1) ∧
      (∃ e, s.slot 1 = some e ∧ e.state = .issued ∧ e.node ≠ 63 ∧ e.silentCount + 1 = e.snapshot.silentLimit) ∧
      (s.node 9).state = .quiet (some 200000) ∧ (s.node 1).state = .idle ∧ (s.node 7).state = .held 4 :=
  ⟨{ busy_exchangeLaw with }, ⟨by rw [replyWaits_iff]; decide, by rw [replyWaits_iff]; decide +kernel⟩, rfl, rfl, full_noHanding _ (by decide +kernel), rfl, by decide +kernel, ⟨_, rfl, by decide +kernel⟩, ⟨_, rfl, by decide +kernel⟩,
    ⟨_, rfl, by decide +kernel⟩, ⟨_, rfl, by decide +kernel⟩, by decide +kernel, by decide +kernel, by decide +kernel⟩

theorem witness_HeadFrameArrival :
    (∃ s : State, s.receivingOn .head ∧ s.intake.length = 3) ∧ (∃ s : State, s.receivingOn .head ∧ s.intake.length = 4) ∧
      (63 : Byte).toNat ≤ 63 ∧ (List.replicate 240 (0 : Byte)).length ≤ 240 :=
  ⟨⟨{ eightUsed with intake := List.replicate 3 (directive9 1 []) }, receivingOn_iff.mpr (by decide +kernel), rfl⟩,
    ⟨{ eightUsed with intake := List.replicate 4 (directive9 1 []) }, receivingOn_iff.mpr (by decide +kernel), rfl⟩, by decide, by decide +kernel⟩

/-! ### Answers, defers and timers -/

/-- Node 9 awaits the answer of slot 6, under a policy and with a defer and a silent count. -/
def awaiting (p : Policy) (defers silents : Nat) : State :=
  holding { lines with now := 510000 } 6
    { issued (.head 12) 9 p 509500 512500 with deferCount := defers, silentCount := silents } (.occupied 6)

/-- The exchange of slot 6. -/
def awaited (p : Policy) (defers silents : Nat) : Exchange :=
  { issued (.head 12) 9 p 509500 512500 with deferCount := defers, silentCount := silents }

theorem awaiting_awaits (p : Policy) (defers silents : Nat) :
    (awaiting p defers silents).awaits 9 6 (awaited p defers silents) 509500 :=
  ⟨rfl, rfl, rfl, rfl, rfl, rfl⟩

theorem awaiting_receiving (p : Policy) (defers silents : Nat) : (awaiting p defers silents).receivingOn .field :=
  ⟨rfl, rfl, .inr ⟨.inl rfl, rfl, rfl⟩⟩

/-- A policy for 16 to 24 bytes with given actions. -/
def policy1624 (long : LongAction) (short : ShortAction) : Policy :=
  { entryF with longAction := long, shortAction := short }

/-- The five cases at the bounds of 16 and 24 bytes. -/
theorem witness_AnswerConcludes :
    (∀ p : Policy, (awaiting p 0 0).receivingOn .field ∧ (awaiting p 0 0).awaits 9 6 (awaited p 0 0) 509500) ∧
      (let e := awaited (policy1624 .deliver .deliver) 0 0;
        e.snapshot.minimum ≤ e.snapshot.maximum ∧
          (e.snapshot.minimum ≤ (List.replicate 16 (0 : Byte)).length ∧
            (List.replicate 16 (0 : Byte)).length ≤ e.snapshot.maximum) ∧
          (e.snapshot.minimum ≤ (List.replicate 24 (0 : Byte)).length ∧
            (List.replicate 24 (0 : Byte)).length ≤ e.snapshot.maximum) ∧
          ((List.replicate 15 (0 : Byte)).length < e.snapshot.minimum ∧ e.snapshot.shortAction = .deliver) ∧
          (e.snapshot.maximum < (List.replicate 25 (0 : Byte)).length ∧ e.snapshot.longAction = .deliver)) ∧
      (let e := awaited (policy1624 .truncate .deliver) 0 0;
        e.snapshot.maximum < (List.replicate 25 (0 : Byte)).length ∧ e.snapshot.longAction = .truncate) :=
  ⟨fun p => ⟨awaiting_receiving p 0 0, awaiting_awaits p 0 0⟩, by decide, by decide⟩

/-- Too short and too long, each at the Silent Limit of 2 and below it. -/
theorem witness_AnswerTakenAsSilence :
    (∀ p silents, (awaiting p 0 silents).receivingOn .field ∧
      (awaiting p 0 silents).awaits 9 6 (awaited p 0 silents) 509500) ∧
      (let p := policy1624 .silence .silence;
        p.minimum ≤ p.maximum ∧
          ((List.replicate 15 (0 : Byte)).length < p.minimum ∧ p.shortAction = .silence) ∧
          (p.maximum < (List.replicate 25 (0 : Byte)).length ∧ p.longAction = .silence) ∧
          (awaited p 0 1).silentCount + 1 ≤ (awaited p 0 1).snapshot.silentLimit ∧
          (awaited p 0 2).snapshot.silentLimit < (awaited p 0 2).silentCount + 1) :=
  ⟨fun p silents => ⟨awaiting_receiving p 0 silents, awaiting_awaits p 0 silents⟩, by decide⟩

/-- A node of every kind that makes a frame stale, and a QUIET node with the tag of its last issue; a frame that arrived as the
line went DOWN. -/
theorem witness_StaleAndLateFrames :
    busyFull.receivingReply ∧
      State.receivingReply { busyFull with fieldPort := { Port.initial with receive := .arrived } } ∧ (busyFull.node 1).state = .idle ∧ (busyFull.node 7).state = .held 4 ∧
      (255 : Byte) ≠ (busyFull.node 5).issueNumber ∧
      (let s := holding lines 6 (awaited entryF 0 0) (.occupied 6);
        let t := s.setSlot 6 (some { awaited entryF 0 0 with answerDue := none });
        t.receivingReply ∧ (t.node 9).state = .occupied 6 ∧
          ∃ e, t.slot 6 = some e ∧ e.answerDue = none) ∧
      ((busyFull.node 9).state = .quiet (some 200000) ∧ (0 : Byte) = (busyFull.node 9).issueNumber) ∧
      ([] : List Byte).length = 0 ∧ ([0, 0, 0, 1] : List Byte).length = 4 :=
  ⟨receivingReply_iff.mpr (by decide +kernel), receivingReply_iff.mpr (by decide +kernel), by decide +kernel, by decide +kernel,
    by decide +kernel, ⟨receivingReply_iff.mpr (by decide +kernel), rfl, _, rfl, rfl⟩,
    by decide +kernel, rfl, rfl⟩

/-- Below the Defer Limit of 3 and at it, with and without a hint. -/
theorem witness_DeferTaken :
    (∀ p defers, (awaiting p defers 0).receivingOn .field ∧
      (awaiting p defers 0).awaits 9 6 (awaited p defers 0) 509500) ∧
      (awaited entryF 2 0).deferCount + 1 ≤ (awaited entryF 2 0).snapshot.deferLimit ∧
      (awaited entryF 3 0).snapshot.deferLimit < (awaited entryF 3 0).deferCount + 1 ∧
      (([0, 0, 0x05, 0xDC] : List Byte).length = 4 ∧ some 1500 = some (beNat [0, 0, 0x05, 0xDC])) :=
  ⟨fun p defers => ⟨awaiting_receiving p defers 0, awaiting_awaits p defers 0⟩, by decide, by decide, by decide⟩

theorem witness_ReissueDelay :
    (∃ p : Policy, p.backoff = .flat ∧ p.baseDelay = 1000) ∧ (∃ p : Policy, p.backoff = .doubling ∧ p.baseDelay = 1000) ∧
      (2000 ≤ computedDelay entryF 2 ∧ computedDelay entryF 2 < 2001) ∧ entryF.baseDelay ≤ 1000000 :=
  ⟨⟨{ entryF with backoff := .flat }, rfl, rfl⟩, ⟨entryF, rfl, rfl⟩, by decide, by decide⟩

/-- The window of slot 0 ends at its Silent Limit of 0, and that of slot 1, a thousand ticks later, below its limit of 1. -/
theorem witness_AnswerWindowExpiry :
    busyFull.noHanding ∧ State.noHanding { busyFull with now := 101000 } ∧
      (∃ e, busyFull.slot 0 = some e ∧ e.state = .issued ∧ e.answerDue = some 100000 ∧ reached busyFull.now 100000 = true ∧
      e.snapshot.silentLimit < e.silentCount + 1) ∧
      (let s : State := { busyFull with now := 101000 };
        ∃ e, s.slot 1 = some e ∧ e.state = .issued ∧ e.answerDue = some 101000 ∧ reached s.now 101000 = true ∧
          e.silentCount + 1 ≤ e.snapshot.silentLimit) :=
  ⟨full_noHanding _ (by decide +kernel), full_noHanding _ (by decide +kernel), ⟨_, rfl, by decide +kernel⟩, ⟨_, rfl, by decide +kernel⟩⟩

theorem witness_ReissueDueAndQuietUntil :
    (let s : State := { busyFull with now := 102000 };
      ∃ e, s.slot 4 = some e ∧ e.state = .deferred ∧ e.reissueDue = some 102000 ∧ reached s.now 102000 = true ∧ s.noHanding) ∧
      (let s : State := { busyFull with now := 200000 };
        (s.node 9).state = .quiet (some 200000) ∧ reached s.now 200000 = true ∧ s.noHanding) :=
  ⟨⟨_, rfl, by decide +kernel, by decide +kernel, by decide +kernel, full_noHanding _ (by decide +kernel)⟩,
    by decide +kernel, by decide +kernel, full_noHanding _ (by decide +kernel)⟩

/-- Slots 6, 0, 2, 4 and 5 of the busy part, with no control place free, have an armed lifetime that ends at
time 0. -/
theorem witness_LifetimeEnd :
    busyFull.noHanding ∧
      (∃ e, busyFull.slot 6 = some e ∧ e.lifetimeArmed = true ∧ reached busyFull.now e.lifetimeEnd = true ∧ e.state = .waiting) ∧
      (∃ e, busyFull.slot 0 = some e ∧ e.lifetimeArmed = true ∧ reached busyFull.now e.lifetimeEnd = true ∧ e.state = .issued ∧
        e.node ≠ 63) ∧
      (∃ e, busyFull.slot 2 = some e ∧ e.lifetimeArmed = true ∧ reached busyFull.now e.lifetimeEnd = true ∧ e.state = .issued ∧
        e.node = 63) ∧
      (∃ e, busyFull.slot 4 = some e ∧ e.lifetimeArmed = true ∧ reached busyFull.now e.lifetimeEnd = true ∧
        e.state = .deferred) ∧
      ∃ e, busyFull.slot 5 = some e ∧ e.lifetimeArmed = true ∧ reached busyFull.now e.lifetimeEnd = true ∧ e.state = .ready :=
  ⟨full_noHanding _ (by decide +kernel), ⟨_, rfl, by decide +kernel⟩, ⟨_, rfl, by decide +kernel⟩, ⟨_, rfl, by decide +kernel⟩, ⟨_, rfl, by decide +kernel⟩,
    ⟨_, rfl, by decide +kernel⟩⟩

/-! ### The arbiter -/

/-- The field line UP and idle, with head and schedule candidates in slots 1 and 0, the head one older. -/
def choosing (run : Nat) : State :=
  { (lines.setSlot 0 (some { waiting (.schedule 4) 20 entryD with admissionSeq := 1, lifetimeEnd := 5000 })).setSlot 1
      (some { waiting (.head 5) 21 entryD with lifetimeEnd := 5000 }) with
    pendingOrder := [1, 0], scheduleRun := run }

theorem choosing_schedule (run : Fin 5) : (choosing run).oldestCandidate true 0 := by
  have h : ∀ run : Fin 5, (((choosing run).slot 0).any (choosing run).eligible) = true := by decide +kernel
  refine ⟨⟨_, rfl, rfl, h run⟩, [1], [], rfl, fun j hj => ?_⟩
  obtain rfl : j = 1 := by simpa using hj
  rintro ⟨e, he, ho, -⟩
  obtain rfl : { waiting (.head 5) 21 entryD with lifetimeEnd := 5000 } = e := Option.some.inj he
  exact nomatch ho

theorem choosing_head (run : Fin 5) : (choosing run).oldestCandidate false 1 := by
  have h : ∀ run : Fin 5, (((choosing run).slot 1).any (choosing run).eligible) = true := by decide +kernel
  exact ⟨⟨_, rfl, rfl, h run⟩, [], [0], rfl, fun _ h => nomatch h⟩

/-- A pending order of one slot has no candidate of the other origin. -/
theorem no_candidate (s : State) (i : Slot) (e : Exchange) (b : Bool) (hp : s.pendingOrder = [i])
    (he : s.slot i = some e) (ho : e.origin.isSchedule ≠ b) : ∀ j ∈ s.pendingOrder, ¬ s.candidate b j := by
  intro j hj
  obtain rfl : j = i := by simpa [hp] using hj
  rintro ⟨f, hf, hb, -⟩
  obtain rfl : e = f := Option.some.inj (he.symm.trans hf)
  exact ho hb

/-- One candidate alone. -/
def choosingOne (e : Exchange) : State :=
  { lines.setSlot 0 (some e) with pendingOrder := [0] }

/-- No event of R85 is due. -/
theorem choosing_quiet (event : Instr) (h : mayEnable event = true) : exec event (choosing 3) = .next (choosing 3) := by
  have timers : ∀ i : Slot, (choosing 3).windowExpires i = none ∧ (choosing 3).reissueReached i = none ∧
      (choosing 3).lifetimeReached i = none := by decide +kernel
  have quiet : ∀ n, (choosing 3).quietReached n = false := fun n => by
    have h : ∀ n : Fin 64, (choosing 3).quietReached n.val = false := by decide +kernel
    by_cases hlt : n < 64
    · exact h ⟨n, hlt⟩
    · rw [State.quietReached, State.node_outside _ (by omega)]
      exact Bool.and_false _
  have firing : (choosing 3).firstFiring = none := by decide +kernel
  cases event with
  | takeRequest => rfl
  | cycleStart => rfl
  | syncEdge => rfl
  | answerWindowExpiry i => simp only [exec, execAnswerWindowExpiry, (timers i).1]
  | reissueDue i => simp only [exec, execReissueDue, (timers i).2.1]
  | lifetimeEnd i => simp only [exec, execLifetimeEnd, (timers i).2.2]
  | quietUntilReached n =>
    simp only [exec, execQuietUntilReached, quiet]
    rfl
  | scheduleFiring k =>
    simp only [exec, execScheduleFiring, firing]
    rfl
  | _ => exact nomatch (show false = true from h)

/-- The share of 4 not used up and used up, one origin alone, a receipt first, nothing, and a line that cannot send; no event due; a
REQUEST to an OCCUPIED node and a REPORT at a full queue that wait behind the choice. -/
theorem witness_ArbiterChoice :
    (lines.fieldPort.up = true ∧ lines.fieldPort.tx = none ∧ lines.receipts = [] ∧ lines.pendingOrder = []) ∧
      State.reset.fieldPort.up = false ∧ busy.fieldPort.tx ≠ none ∧
      (∀ run : Fin 5, (choosing run).fieldPort.up = true ∧ (choosing run).fieldPort.tx = none ∧ (choosing run).receipts = [] ∧
        (choosing run).oldestCandidate true 0 ∧ (choosing run).oldestCandidate false 1) ∧
      (choosing 3).scheduleRun < (choosing 3).params.acyclicShare ∧
      (choosing 4).params.acyclicShare ≤ (choosing 4).scheduleRun ∧
      (let s := choosingOne (waiting (.schedule 4) 20 entryD);
        s.oldestCandidate true 0 ∧ ∀ j ∈ s.pendingOrder, ¬ s.candidate false j) ∧
      (let s := choosingOne (waiting (.head 4) 20 entryD);
        s.oldestCandidate false 0 ∧ ∀ j ∈ s.pendingOrder, ¬ s.candidate true j) ∧
      ({ lines with receipts := [⟨30, 41, .accepted⟩] } : State).receipts = [⟨30, 41, .accepted⟩] ∧
      ((choosing 3).fieldStart = some (.exchange 0) ∧ mayEnable (.reissueDue 7) = true ∧
        exec (.reissueDue 7) (choosing 3) = .next (choosing 3) ∧
        ∃ e, (choosing 3).slot 1 = some e ∧ (choosing 3).eligible e = true ∧ e.state = .waiting ∧ e.node ≠ 63 ∧
          ((choosing 3).node e.node).state = .idle ∧
          ∀ j b, (choosing 3).slot j = some b → b.node ≠ 63) ∧
      (exec .syncEdge (choosing 3) = .next (choosing 3) ∧ exec .cycleStart (choosing 3) = .next (choosing 3) ∧
        exec (.scheduleFiring 3) (choosing 3) = .next (choosing 3)) ∧
      (let s : State :=
          { (choosing 3).setNodeState 5 (.occupied 9) with pending := [.reissueDue 7, .requestArrival 5 9 0x41 []] };
        s.fieldStart = some (.exchange 0) ∧ s.comes (.requestArrival 5 9 0x41 [])) ∧
      (let s : State :=
          { lines with
            receipts := List.replicate 8 ⟨30, 41, .accepted⟩, pending := [.reportArrival 30 42 0x20 []] };
        s.fieldStart = some (.receipt ⟨30, 41, .accepted⟩) ∧ s.comes (.reportArrival 30 42 0x20 []) ∧
          s.receipts.length = 8) ∧
      ((choosing 3).fieldChoice = some (.exchange 0) ∧ (choosing 3).noHanding ∧
        (∀ x, (choosing 3).comes x → isArrival x = false) ∧ ¬ (choosing 3).headSent ∧
        ∀ event, mayEnable event = true → exec event (choosing 3) = .next (choosing 3)) :=
  ⟨⟨rfl, rfl, rfl, rfl⟩, rfl, by decide +kernel,
    fun run => ⟨rfl, rfl, rfl, choosing_schedule run, choosing_head run⟩, by decide +kernel, by decide +kernel,
    ⟨⟨⟨_, rfl, rfl, by decide +kernel⟩, [], [], rfl, fun _ h => nomatch h⟩,
      no_candidate _ 0 _ _ rfl rfl (by decide)⟩,
    ⟨⟨⟨_, rfl, rfl, by decide +kernel⟩, [], [], rfl, fun _ h => nomatch h⟩,
      no_candidate _ 0 _ _ rfl rfl (by decide)⟩, rfl,
    ⟨by decide +kernel, rfl, choosing_quiet _ rfl, _, rfl, by decide +kernel, rfl, by decide, by decide +kernel,
      fun j b h => by simpa using slots_all (choosing 3) (fun _ e => e.node != 63) (by decide +kernel) j b h⟩,
    ⟨choosing_quiet _ rfl, choosing_quiet _ rfl, choosing_quiet _ rfl⟩,
    ⟨by decide +kernel, [.reissueDue 7], [], rfl, by decide⟩,
    ⟨by decide +kernel, ⟨[], [], rfl, fun _ h => nomatch h⟩, rfl⟩,
    by decide +kernel, .inr ⟨.inl rfl, rfl, rfl⟩, (fun x hx => by
      obtain ⟨before, after, h, -⟩ := hx
      exact absurd (show ([] : List Instr) = before ++ x :: after from h) (by simp)),
    (fun h => by obtain ⟨x, hx, -⟩ := h; exact nomatch (show none = some x from hx)), choosing_quiet⟩

/-- A head exchange chosen, a schedule exchange chosen with and without a head candidate, and a broadcast chosen. -/
theorem witness_Selections :
    ((choosing 4).fieldStart = some (.exchange 1) ∧
      ∃ e, (choosing 4).slot 1 = some e ∧ e.origin = .head 5 ∧ e.node ≠ 63) ∧
      ((choosing 3).fieldStart = some (.exchange 0) ∧
        (∃ e, (choosing 3).slot 0 = some e ∧ e.origin = .schedule 4 ∧ e.node ≠ 63) ∧
        ∃ j ∈ (choosing 3).pendingOrder, (choosing 3).candidate false j) ∧
      (let s := choosingOne (waiting (.schedule 4) 20 entryD);
        s.fieldStart = some (.exchange 0) ∧ (∃ e, s.slot 0 = some e ∧ e.origin = .schedule 4 ∧ e.node ≠ 63) ∧
          ∀ j ∈ s.pendingOrder, ¬ s.candidate false j) ∧
      (let s := choosingOne (waiting (.head 4) 63 entryE);
        s.fieldStart = some (.exchange 0) ∧ ∃ e, s.slot 0 = some e ∧ e.origin = .head 4 ∧ e.node = 63) :=
  ⟨⟨by decide +kernel, _, rfl, rfl, by decide⟩,
    ⟨by decide +kernel, ⟨_, rfl, rfl, by decide⟩, 1, by decide, (choosing_head 3).1⟩,
    ⟨by decide +kernel, ⟨_, rfl, rfl, by decide⟩, no_candidate _ 0 _ _ rfl rfl (by decide)⟩,
    ⟨by decide +kernel, _, rfl, rfl, rfl⟩⟩

/-- The field port about to send, and at the completion of, a frame. -/
def sending (f : InFlight) : State :=
  { lines with fieldPort := port 0 (some sent), inFlight := some f }

theorem sending_sent (f : InFlight) : (sending f).fieldSent := ⟨sent, rfl, (by decide : reached 0 0 = true)⟩

theorem witness_ReceiptTransmission :
    (let s : State := { lines with receipts := [⟨30, 41, .accepted⟩] };
      s.fieldStart = some (.receipt ⟨30, 41, .accepted⟩) ∧ s.receipts = ⟨30, 41, .accepted⟩ :: []) ∧
      (sending (.receipt ⟨30, 41, .accepted⟩)).inFlight = some (.receipt ⟨30, 41, .accepted⟩) ∧
      (sending (.receipt ⟨30, 41, .accepted⟩)).fieldSent ∧ (sending (.receipt ⟨30, 41, .accepted⟩)).noHanding :=
  ⟨⟨by decide +kernel, rfl⟩, rfl, sending_sent _, .inr ⟨.inl rfl, rfl, rfl⟩⟩

/-- The node of the frame in flight OCCUPIED, QUIET without and with an end, IDLE and HELD; and a broadcast in flight. -/
theorem witness_IssueCompletions :
    (let s := sending (.issue 6 9 1 3000);
      s.inFlight = some (.issue 6 9 1 3000) ∧ s.fieldSent ∧ s.noHanding ∧ (s.node 9).state = .idle ∧
        ((s.setNodeState 9 (.occupied 6)).setSlot 6 (some (waiting (.head 1) 9 entryF))).fieldSent ∧
        (((s.setSlot 6 (some (waiting (.head 1) 9 entryF))).setNodeState 9 (.occupied 6)).node 9).state = .occupied 6 ∧
        ((s.setNodeState 9 (.quiet none)).node 9).state = .quiet none ∧
        ((s.setNodeState 9 (.quiet (some 7))).node 9).state = .quiet (some 7) ∧
        ((s.setNodeState 9 (.held 6)).node 9).state = .held 6) ∧
      (let e := { waiting (.head 3) 63 entryE with state := .issued };
        let s := (sending (.issue 2 63 0 50)).setSlot 2 (some e);
        s.inFlight = some (.issue 2 63 0 50) ∧ s.fieldSent ∧ s.slot 2 = some e ∧ e.state = .issued ∧ e.node = 63 ∧
          s.noHanding) :=
  ⟨⟨rfl, sending_sent _, .inr ⟨.inl rfl, rfl, rfl⟩, by decide +kernel, ⟨sent, rfl, by decide⟩, by decide +kernel, by decide +kernel,
      by decide +kernel, by decide +kernel⟩,
    rfl, ⟨sent, rfl, by decide⟩, rfl, rfl, rfl, .inr ⟨.inl rfl, rfl, rfl⟩⟩

/-! ### Reports and delivery -/

/-- A store with every entry in use. -/
def fullStore : State :=
  { lines with store := Vector.replicate 16 (some ⟨false, 12, 1, 0x20, ⟨0, 0⟩, []⟩) }

theorem witness_ReportRepeatedOrRefused :
    (let s := lines.updateNode 62 fun n => { n with lastSequence := some 7 };
      s.receivingOn .field ∧ (s.node 62).lastSequence = some 7) ∧
      fullStore.receivingOn .field ∧ (fullStore.node 1).lastSequence ≠ some 7 ∧ (∀ k, fullStore.stored k ≠ none) ∧
      (List.replicate 200 (0 : Byte)).length ≤ 200 :=
  ⟨⟨receivingOn_iff.mpr (by decide +kernel), by decide +kernel⟩, receivingOn_iff.mpr (by decide +kernel), by decide +kernel,
    by decide +kernel, by decide +kernel⟩

/-- The last entry FREE alone, with a credit of 1; no credit, with each notice state and an owed place kept or new. -/
theorem witness_ReportTaken :
    (let s := { fullStore with store := fullStore.store.set 15 none };
      let t := s.updateNode 12 fun n => { n with credit := 1 };
      let u : State := { s with owedOrder := [12], delivery := records 8 };
      t.receivingOn .field ∧ (t.node 12).lastSequence ≠ some 7 ∧ t.stored 15 = none ∧
        (∀ j, j < 15 → t.stored j ≠ none) ∧ 0 < (t.node 12).credit ∧
        s.receivingOn .field ∧ (s.node 12).credit = 0 ∧ (s.node 12).notice = .none ∧ 12 ∉ s.owedOrder ∧
        u.receivingOn .field ∧ (u.node 12).notice = .none ∧ 12 ∈ u.owedOrder) ∧
      busyFull.receivingOn .field ∧ (busyFull.node 11).notice ≠ .none ∧ (busyFull.node 11).credit = 0 ∧
      busyFull.stored 2 = none ∧ (∀ j, j < 2 → busyFull.stored j ≠ none) ∧ (busyFull.node 11).lastSequence ≠ some 7 :=
  ⟨⟨receivingOn_iff.mpr (by decide +kernel), by decide +kernel, by decide +kernel, by decide +kernel, by decide +kernel,
      receivingOn_iff.mpr (by decide +kernel), by decide +kernel, by decide +kernel, by decide +kernel,
      receivingOn_iff.mpr (by decide +kernel), by decide +kernel⟩,
    receivingOn_iff.mpr (by decide +kernel), by decide +kernel⟩

/-- Section 9.10 with k of 1, 2 and 15: part of the park order released, and all of it; saturation from a credit of 1. -/
theorem witness_PostGrant :
    (∀ k, (asked example910 0x18 [30, k]).directiveFirst (directive9 0x18 [30, k]) 0x18) ∧
      (1 : Byte).toNat = 1 ∧ (15 : Byte).toNat = 15 ∧ (example910.node 30).parkOrder = [14, 15, 13] ∧
      (example910.node 30).parkOrder.drop (min 15 ((example910.node 30).credit + 2)) = [13] ∧
      30 ∉ example910.owedOrder ∧ 30 ∈ ({ example910 with owedOrder := [30] } : State).owedOrder ∧
      (example910.node 30).parkOrder.drop (min 15 ((example910.node 30).credit + 15)) = [] ∧
      15 < (busy.node 10).credit + 1 :=
  ⟨fun k => asked_first example910 _ _ (by decide +kernel), by decide +kernel⟩

theorem witness_WithdrawGrantAndDiscardParked :
    (asked busy 0x19 [10]).directiveFirst (directive9 0x19 [10]) 0x19 ∧ (busy.node 10).credit = 15 ∧
      (asked busy 0x1A [11]).directiveFirst (directive9 0x1A [11]) 0x1A ∧ (busy.node 11).parkOrder = [0] ∧
      (asked sevenUsed 0x19 [62]).directiveFirst (directive9 0x19 [62]) 0x19 ∧
      (asked sevenUsed 0x1A [1]).directiveFirst (directive9 0x1A [1]) 0x1A :=
  ⟨asked_first busy _ _ (by decide +kernel), by decide +kernel, asked_first busy _ _ (by decide +kernel),
    by decide +kernel, asked_first sevenUsed _ _ sevenUsed_free, asked_first sevenUsed _ _ sevenUsed_free⟩

/-- The head port at the completion of the first of some items, no control place being handed. -/
def delivering (items : List Item) : State :=
  { busy with headPort := port 0 (some sent), delivery := items, intake := [], owedOrder := [] }

theorem delivering_sent (items : List Item) : (delivering items).headSent :=
  ⟨sent, rfl, (by decide : reached 100000 0 = true)⟩

theorem witness_HeadTransmitStart :
    (let s : State := { busy with delivery := .conclusion 3 :: records 8 };
      s.headPort.up = true ∧ s.headPort.tx = none ∧ s.noHanding ∧ ∃ e, s.slot 3 = some e) ∧
      (let s : State := { busy with delivery := .report 1 :: records 8 };
        s.headPort.up = true ∧ s.headPort.tx = none ∧ s.noHanding ∧ ∃ r, s.stored 1 = some r) ∧
      sevenUsed.headPort.up = true ∧ sevenUsed.headPort.tx = none ∧ sevenUsed.noHanding ∧
      sevenUsed.delivery = .control ⟨.notice, 0, 0, 2, [1]⟩ :: records 6 :=
  ⟨⟨rfl, rfl, full_noHanding _ (by decide +kernel), _, rfl⟩, ⟨rfl, rfl, full_noHanding _ (by decide +kernel), _, rfl⟩,
    rfl, rfl, .inr ⟨.inl rfl, rfl, rfl⟩, rfl⟩

/-- A HEAD origin, a SCHEDULE origin whose entry names another slot, and one whose entry names this slot. -/
theorem witness_HeadCompletions :
    (∀ items, (delivering items).headSent ∧ (delivering items).noHanding ∧ (delivering items).delivery = items) ∧
      (∃ e, (delivering [.conclusion 6]).slot 6 = some e ∧ e.origin = .head 6) ∧
      (∃ e, (delivering [.conclusion 3]).slot 3 = some e ∧ e.origin = .schedule 3 ∧
        ((delivering [.conclusion 3]).entry 3).openSlot = some 3) ∧
      (let s : State :=
          { delivering [.conclusion 3] with
            schedule := busy.schedule.set 3 { busy.entry 3 with openSlot := some 4 } };
        ∃ e, s.slot 3 = some e ∧ e.origin = .schedule 3 ∧ (s.entry 3).openSlot ≠ some 3) :=
  ⟨fun items => ⟨delivering_sent items, .inr ⟨.inl rfl, rfl, rfl⟩, rfl⟩, ⟨_, rfl, rfl⟩, ⟨_, rfl, rfl, rfl⟩, ⟨_, rfl, rfl, by decide +kernel⟩⟩

/-- The last control place free, with an empty intake and with an admissible REQUEST in front. -/
theorem witness_NoticesPlaced :
    (let s : State := { sevenUsed with flagsOwed := true };
      s.controlUsed = 7 ∧ s.noIntakeClaim ∧ s.flagsOwed = true ∧
        (∀ f, (0 : Byte).getLsbD (flagNumber f) = (s.flag f).raised) ∧ (0 : Byte).getLsbD 6 = false ∧
        (0 : Byte).getLsbD 7 = false) ∧
      (let s : State :=
          { sevenUsed with
            owedOrder := [11], policies := [entryD], intake := [⟨.request, 20, 5, 0x41, []⟩] };
        s.controlUsed = 7 ∧ s.noIntakeClaim ∧ s.flagsOwed = false ∧ s.owedOrder = 11 :: []) ∧
      (let s : State := { sevenUsed with flagsOwed := true };
        ¬ s.noHanding ∧ waitsForHanding (.lifetimeEnd 0) = true ∧ waitsForHanding (.answerArrival 5 1 2 []) = true ∧
          s.fieldPort.receive ≠ .arrived ∧ s.noIntakeClaim) :=
  ⟨⟨by decide +kernel, .inl rfl, rfl, fun f => by cases f <;> decide +kernel, by decide, by decide⟩,
    ⟨by decide +kernel, .inr ⟨_, _, entryD, rfl, rfl, by decide +kernel⟩, rfl, rfl⟩,
    by rw [noHanding_iff]; decide +kernel, rfl, rfl, by decide +kernel, .inl rfl⟩

/-! ### The clocks and the schedule -/

/-- A settled part, at a phase in the middle and at the end of a cycle, with and without an edge at the next sample. -/
theorem witness_Tick :
    lines.settled = true ∧ lines.sampled = false ∧ lines.phase + 1 < lines.params.cycleLength ∧
      (let s : State := { lines with phase := 9999, sampled := true };
        s.settled = true ∧ s.params.cycleLength ≤ s.phase + 1) ∧
      (let s : State := { lines with sampled := true, syncRun := 2 };
        s.settled = true ∧ s.params.syncFilter ≤ s.syncRun + 1 ∧ s.params.syncPolarity = .rising ∧
          s.qualifiedLevel = false) := by
  decide +kernel

theorem witness_SettledLeavesNothingToTake :
    lines.settled = true ∧ ofItself .cycleStart = true ∧ busy.settled = false := by
  decide +kernel

theorem witness_CycleStart :
    (let s : State := { lines with phase := 9998, advanceHeld := true };
      s.advanceHeld = true ∧ s.phase + 1 < s.params.cycleLength ∧ s.noHanding) ∧
    (let s : State := { lines with phase := 9999, advanceHeld := true };
      s.advanceHeld = true ∧ s.params.cycleLength ≤ s.phase + 1 ∧ s.noHanding ∧ s.params.clockMode = .free) ∧
      (let s : State := { example108 9999 .flywheel 104 with advanceHeld := true };
        s.advanceHeld = true ∧ s.params.cycleLength ≤ s.phase + 1 ∧ s.noHanding ∧ s.params.clockMode = .synced) :=
  ⟨⟨rfl, by decide, .inr ⟨.inl rfl, rfl, rfl⟩⟩, ⟨rfl, by decide, .inr ⟨.inl rfl, rfl, rfl⟩, rfl⟩, rfl, by decide,
    .inr ⟨.inl rfl, rfl, rfl⟩, rfl⟩

theorem lines_empty (k : EntryIndex) : (lines.entry k).state = .empty := by
  have h : ∀ k, (lines.entry k).state = .empty := by decide +kernel
  exact h k

theorem example108_no_firing (phase : Nat) (kind : StartKind) (cycle : CycleCount) (k : EntryIndex) (live : ScheduleFields) :
    ¬ (example108 phase kind cycle).firing k (example108 phase kind cycle).phase live := fun h => by
  have he : ((example108 phase kind cycle).entry k).state = .empty := lines_empty k
  exact nomatch he.symm.trans h.1

/-- A rising edge due in FREE mode; on time and early where they meet, at phases 9,950 and 9,949; late at phases 0 and 50 after
a flywheel start, early at 51 and for a second edge in the cycle; an entry that fires first; and a falling level. -/
theorem witness_SyncEdge :
    (∀ phase kind cycle, let s := example108 phase kind cycle;
      s.levelChange = some .edge ∧ (∀ k live, ¬ s.firing k s.phase live) ∧ s.noHanding ∧ s.params.clockMode = .synced ∧
        s.startKind = kind ∧ s.phase = phase ∧ s.capture = none) ∧
      ({ example108 0 .reset 0 with params := lines.params } : State).params.clockMode = .free ∧
      (let s := example108 9950 .wrap 0; s.params.cycleLength ≤ s.phase + s.params.syncTolerance) ∧
      (let s := example108 9949 .wrap 0; s.phase + s.params.syncTolerance < s.params.cycleLength) ∧
      (let s := example108 50 .flywheel 0; s.phase ≤ s.params.syncTolerance) ∧
      (let s := example108 51 .flywheel 0; ¬ s.phase ≤ s.params.syncTolerance) ∧
      (let s : State := { example108 50 .flywheel 0 with capture := some ⟨0, 10, 10, .late, true⟩ };
        ¬ ∀ r, s.capture = some r → r.currentCycle = false) ∧
      (let s : State := { example119 with phase := 7000 };
        s.firing 3 s.phase ⟨.periodic, 23, 0x41, 7000, 1, 0, []⟩) ∧
      (let s : State := { example108 0 .reset 0 with qualifiedLevel := true, levelChange := some .against };
        s.levelChange = some .against ∧ s.noHanding) :=
  ⟨fun _ _ _ =>
      ⟨rfl, fun k _ h => example108_no_firing _ _ _ k _ h, .inr ⟨.inl rfl, rfl, rfl⟩, rfl, rfl, rfl, rfl⟩,
    rfl, by decide, by decide, by decide, by decide,
    by
      show ¬ ∀ r : Capture, some (Capture.mk 0 10 10 .late true) = some r → _
      exact fun h => absurd (h _ rfl) (by decide),
    ⟨rfl, rfl, rfl, Nat.mod_one _, rfl⟩, rfl, .inr ⟨.inl rfl, rfl, rfl⟩⟩

/-- A periodic or one-shot entry 3 that fires at phase 7,000. -/
def firingState (mode : ScheduleMode) (openSlot : Option Slot) : State :=
  { lines with
    phase := 7000
    policies := [entryD]
    schedule := lines.schedule.set 3
      { ScheduleEntry.initial with
        state := .armed, live := some ⟨mode, 20, 0x41, 7000, 1, 0, [1]⟩, openSlot := openSlot } }

theorem firingState_fires (mode : ScheduleMode) (openSlot : Option Slot) :
    (firingState mode openSlot).firing 3 7000 ⟨mode, 20, 0x41, 7000, 1, 0, [1]⟩ :=
  ⟨rfl, rfl, rfl, Nat.mod_one _, rfl⟩

theorem firingState_first (mode : ScheduleMode) (openSlot : Option Slot) :
    ∀ j, j < 3 → ∀ other, ¬ (firingState mode openSlot).firing j 7000 other := by
  intro j hj other h
  have e : (firingState mode openSlot).entry j = ScheduleEntry.initial := by
    have hlt : j.val < 3 := hj
    show (lines.schedule.set 3 _)[j.val] = _
    rw [Vector.getElem_set, if_neg (by omega)]
    exact Vector.getElem_replicate j.isLt
  rw [State.firing, e] at h
  exact nomatch h.1

/-- Overlap, no policy, no slot, and an admission of both modes into the lowest FREE slot, the first and the last. -/
theorem witness_ScheduleFiring :
    (∀ mode openSlot, (firingState mode openSlot).firing 3 (firingState mode openSlot).phase
        ⟨mode, 20, 0x41, 7000, 1, 0, [1]⟩ ∧
      ((firingState mode openSlot).entry 3).openSlot = openSlot ∧ (firingState mode openSlot).noHanding ∧
      ∀ j, j < 3 → ∀ other, ¬ (firingState mode openSlot).firing j (firingState mode openSlot).phase other) ∧
      lookupPolicy (firingState .periodic none).policies 20 0x41 = some entryD ∧ lookupPolicy [] 20 0x41 = none ∧
      (firingState .periodic none).slot 0 = none ∧
      (∀ i, ({ firingState .oneShot none with slots := Vector.replicate 24 (some (waiting (.head 1) 5 entryD)) } :
        State).slot i ≠ none) ∧
      (let slots := (Vector.replicate 24 (some (waiting (.head 1) 5 entryD))).set 23 none;
        let s : State := { firingState .oneShot none with slots := slots };
        s.slot 23 = none ∧ ∀ j, j < 23 → s.slot j ≠ none) ∧
      ∀ live, ¬ lines.firing 3 7000 live :=
  ⟨fun mode openSlot => ⟨firingState_fires mode openSlot, rfl, .inr ⟨.inl rfl, rfl, rfl⟩, firingState_first mode openSlot⟩, by decide +kernel,
    by decide +kernel, by decide +kernel, by decide +kernel, by decide +kernel,
    fun _ h => nomatch (show ScheduleState.empty = .armed from h.1)⟩

/-! ### Admission and directives -/

/-- A REQUEST from node 63 with tag 63 and 200 bytes. -/
def widestRequest : Frame := ⟨.request, 63, 63, 0x50, List.replicate 200 0⟩

/-- The request first in the intake, one policy, and a number of FREE slots at the top. -/
def requested (f : Frame) (free : Nat) : State :=
  { sevenUsed with
    intake := [f], policies := [entryD]
    slots := Vector.ofFn fun i => if 24 ≤ i.val + free then none else some (waiting (.head 1) 5 entryD) }

theorem requested_tag (f : Frame) (free : Nat) (j : Slot) (e : Exchange) (h : (requested f free).slot j = some e) :
    e.origin = .head 1 := by
  simp only [State.slot, requested, Fin.getElem_fin, Vector.getElem_ofFn] at h
  split at h
  · exact nomatch h
  · rw [← Option.some.inj h]; rfl

/-- Three FREE slots are just enough for the Schedule Reserve of 2. -/
theorem witness_RequestAdmitted :
    (requested widestRequest 3).intake = widestRequest :: [] ∧ widestRequest.kind = .request ∧
      widestRequest.tag.toNat ≤ 63 ∧ widestRequest.node ≠ 0 ∧ widestRequest.payload.length ≤ 200 ∧
      (∀ j e, (requested widestRequest 3).slot j = some e → e.origin ≠ .head widestRequest.tag) ∧
      lookupPolicy (requested widestRequest 3).policies 63 0x50 = some entryD ∧
      (requested widestRequest 3).params.scheduleReserve + 1 ≤
        (List.finRange 24).countP (fun j => ((requested widestRequest 3).slot j).isNone) ∧
      (requested widestRequest 3).slot 21 = none ∧ (∀ j, j < 21 → (requested widestRequest 3).slot j ≠ none) ∧
      (requested widestRequest 3).noHanding :=
  ⟨rfl, rfl, by decide, by decide, by decide +kernel,
    fun j e h => by rw [requested_tag _ _ j e h]; decide, by decide +kernel, by decide +kernel,
    by decide +kernel, by decide +kernel, noHanding_iff.mpr (by decide +kernel)⟩

/-- Each check failing alone, at its boundary; a control place free, and none. -/
theorem witness_RequestRefused :
    sevenUsed.controlUsed < 8 ∧ 8 ≤ eightUsed.controlUsed ∧
      63 < (⟨.request, 7, 64, 0, []⟩ : Frame).tag.toNat ∧
      (⟨.request, 0, 63, 0, []⟩ : Frame).node = 0 ∧
      200 < (⟨.request, 7, 63, 0, List.replicate 201 0⟩ : Frame).payload.length ∧
      (∃ e, (requested ⟨.request, 7, 1, 0, []⟩ 3).slot 0 = some e ∧ e.origin = .head 1) ∧
      (∀ j e, (requested widestRequest 3).slot j = some e → e.origin ≠ .head widestRequest.tag) ∧
      lookupPolicy ({ requested widestRequest 3 with policies := [entryA] } : State).policies 63 0x50 = none ∧
      (let f : Frame := ⟨.request, 20, 2, 0x50, []⟩;
        (∀ j e, (requested f 2).slot j = some e → e.origin ≠ .head f.tag) ∧
          lookupPolicy (requested f 2).policies 20 0x50 = some entryD ∧
          (List.finRange 24).countP (fun j => ((requested f 2).slot j).isNone) <
            (requested f 2).params.scheduleReserve + 1) :=
  ⟨sevenUsed_free, by decide +kernel, by decide, by decide, by decide +kernel, ⟨_, rfl, rfl⟩,
    fun j e h => by rw [requested_tag _ _ j e h]; decide, by decide +kernel,
    fun j e h => by rw [requested_tag _ _ j e h]; decide, by decide +kernel, by decide +kernel⟩

theorem witness_LookupPrecedence :
    findPolicy [entryD, entryA] { node := 7, function := some 0x41 } = some entryA ∧
      lookupPolicy [entryD, entryA] 7 0x41 = some entryA ∧ [entryD, entryA].Perm [entryA, entryD] ∧
      [entryD, entryA].Pairwise (fun p q => p.key ≠ q.key) := by
  decide +kernel

/-- An unknown code; a Length of 1 where 0 is wanted; the values on both sides of each range. -/
theorem witness_DirectiveJudgement :
    ((asked sevenUsed 0x00 []).directiveFirst (directive9 0x00 []) (directive9 0x00 []).function ∧
      (0x00 : Byte) ∉ directiveCodes) ∧
      (∀ code arguments, (asked sevenUsed code arguments).directiveFirst (directive9 code arguments) code) ∧
      ([0] : List Byte).length ∉ [0] ∧ (List.replicate 43 (0 : Byte)).length ∉ (List.range 33).map (10 + ·) ∧
      23 < (24 : Byte).toNat ∧ (0 : Byte).toNat < 1 ∧ 62 < (63 : Byte).toNat ∧ 63 < (64 : Byte).toNat ∧
      31 < (32 : Byte).toNat ∧ 15 < (16 : Byte).toNat :=
  ⟨⟨asked_first _ _ _ sevenUsed_free, by decide⟩, fun _ _ => asked_first _ _ _ sevenUsed_free, by decide,
    by decide +kernel, by decide, by decide, by decide, by decide, by decide, by decide⟩

theorem witness_FetchIdentity :
    (asked sevenUsed 0x01 []).directiveFirst (directive9 0x01 []) 0x01 ∧ (directive9 0x01 []).payload = [] :=
  ⟨asked_first _ _ _ sevenUsed_free, rfl⟩

/-- Each code, the last slot, the last node and the last entry, and the store counts of node 11. -/
theorem witness_ReadDirectives :
    (∀ code arguments, (asked busy code arguments).directiveFirst (directive9 code arguments) code) ∧
      (23 : Byte).toNat = (23 : Slot).val ∧ (1 ≤ (62 : Byte).toNat ∧ (62 : Byte).toNat ≤ 62) ∧
      (31 : Byte).toNat = (31 : EntryIndex).val ∧
      1 = (List.finRange 16).countP
        (fun k => (busy.stored k).any fun r => r.node == (11 : Byte).toNat && !r.released) ∧
      1 = (List.finRange 16).countP
        (fun k => (busy.stored k).any fun r => r.node == (10 : Byte).toNat && r.released) :=
  ⟨fun _ _ => asked_first _ _ _ (by decide +kernel), by decide, by decide, by decide, by decide +kernel,
    by decide +kernel⟩

theorem witness_ResultLayouts :
    (∃ s : State, s.capture = none) ∧ (∃ s : State, ∃ c, s.capture = some c) ∧
      (∃ n : NodeEntry, n.state = .quiet (some 5)) ∧ (∃ n : NodeEntry, ∀ q, n.state ≠ .quiet (some q)) ∧
      ∃ e : ScheduleEntry, ∀ f, e.live = some f ∨ e.staged = some f → f.template.length ≤ 32 :=
  ⟨⟨lines, rfl⟩, ⟨{ lines with capture := some ⟨0, 0, 0, .late, true⟩ }, _, rfl⟩,
    ⟨{ NodeEntry.initial with state := .quiet (some 5) }, rfl⟩,
    ⟨NodeEntry.initial, fun _ h => nomatch h⟩,
    ⟨{ ScheduleEntry.initial with live := some ⟨.periodic, 20, 0, 0, 1, 0, List.replicate 32 0⟩ },
      fun f h => by
        rcases h with h | h
        · rw [← Option.some.inj h]; decide
        · exact nomatch h⟩⟩

/-- Parameters at the ends of their ranges: the longest cycle, a tolerance of 9,999 below the 10,000 in force, a mode, filter and
polarity that change; and a tolerance of 10,000, which does not fit the length in force. -/
def edgeParameters : Parameters :=
  { scheduleReserve := 8, acyclicShare := 15, clockMode := .synced, cycleLength := 10000000, syncPolarity := .falling,
    syncFilter := 8, syncTolerance := 9999, syncMissLimit := 15, alertMask := 63 }

theorem witness_SetParameters :
    (∀ arguments, (asked sevenUsed 0x02 arguments).directiveFirst (directive9 0x02 arguments) 0x02) ∧
      parametersValid edgeParameters = true ∧ edgeParameters.syncTolerance < sevenUsed.params.cycleLength ∧
      edgeParameters.syncFilter ≠ sevenUsed.params.syncFilter ∧ parametersValid sevenUsed.params = true ∧
      sevenUsed.params.syncTolerance < sevenUsed.params.cycleLength ∧
      (∀ p, parametersValid p = true → p.syncTolerance < sevenUsed.params.cycleLength → ([] : List Byte) ≠ parameterImage p) :=
  ⟨fun _ => asked_first _ _ _ sevenUsed_free, by decide, by decide, by decide, by decide, by decide,
    fun p _ _ h => by simp [parameterImage] at h⟩

/-- A masked flag raised; pairs with the flag's stamp, with an older stamp, and for a flag that is not raised; a number above 5
and a number repeated. -/
theorem witness_RaiseAndClearFlags :
    (let s := asked (sevenUsed.raiseFlag .storeFull) 0x05 [4, 0, 1];
      s.directiveFirst (directive9 0x05 [4, 0, 1]) 0x05 ∧
        ([4, 0, 1] : List Byte) =
          [(Flag.storeFull, (1 : BitVec 16))].flatMap fun p => byte (flagNumber p.1).val :: beBytes 2 p.2.toNat) ∧
      (∀ p ∈ [(Flag.storeFull, (1 : BitVec 16))],
        ((sevenUsed.raiseFlag .storeFull).flag p.1).raised = true →
          ((sevenUsed.raiseFlag .storeFull).flag p.1).stamp = p.2) ∧
      (∃ p ∈ [(Flag.storeFull, (0 : BitVec 16))],
        ((sevenUsed.raiseFlag .storeFull).flag p.1).raised = true ∧
          ((sevenUsed.raiseFlag .storeFull).flag p.1).stamp ≠ p.2) ∧
      ((sevenUsed.raiseFlag .storeFull).flag .cycleSlip).raised = false ∧
      (([6, 0, 1] : List Byte) = [((6 : Byte), (0 : Byte), (1 : Byte))].flatMap (fun t => [t.1, t.2.1, t.2.2]) ∧
        5 < (6 : Byte).toNat) ∧
      ¬ ([((5 : Byte), (0 : Byte), (1 : Byte)), (5, 0, 2)].map fun t => t.1).Nodup :=
  ⟨⟨asked_first _ _ _ (by decide +kernel), by decide +kernel⟩, by decide +kernel, by decide +kernel, by decide +kernel,
    by decide, by decide⟩

/-- 127 and 128 entries: nodes 0 to 63 in ascending rank, with functions 0 and 1. -/
def manyPolicies (n : Nat) : List Policy :=
  (List.range n).map fun i => { entryD with key := { node := i / 2, function := some (byte (i % 2)) } }

theorem witness_LoadAndDropPolicy :
    (∀ n code arguments,
      (asked { sevenUsed with policies := manyPolicies n } code arguments).directiveFirst (directive9 code arguments)
        code) ∧
      State.PolicyLaw { sevenUsed with policies := manyPolicies 127 } ∧
      State.PolicyLaw { sevenUsed with policies := manyPolicies 128 } ∧
      policyValid entryD = true ∧ (manyPolicies 127).length < 128 ∧ 128 ≤ (manyPolicies 128).length ∧
      (∀ q ∈ manyPolicies 128, q.key ≠ entryD.key) ∧
      (∃ q ∈ manyPolicies 128, q.key = { node := 63, function := some 1 }) ∧
      policyValid { entryD with key := { node := 63, function := some 1 } } = true ∧
      (∀ p, policyValid p = true → ([] : List Byte) ≠ policyImage p) ∧
      ∀ k : PolicyKey, k.node ≤ 63 → ([] : List Byte) ≠ keyImage k :=
  ⟨fun _ _ _ => asked_first _ _ _ (by show sevenUsed.controlUsed < 8; exact sevenUsed_free),
    ⟨by decide +kernel, by decide +kernel⟩, ⟨by decide +kernel, by decide +kernel⟩, by decide, by decide +kernel,
    by decide +kernel, by decide +kernel, by decide +kernel, by decide, fun p _ h => by simp [policyImage] at h,
    fun k _ h => by cases hf : k.function <;> simp [keyImage, hf] at h⟩

theorem witness_ReadPolicy :
    (∀ arguments, (asked sevenUsed 0x0A arguments).directiveFirst (directive9 0x0A arguments) 0x0A) ∧
      findPolicy [entryE] { node := (63 : Byte).toNat, function := none } = some entryE ∧
      findPolicy [entryA] { node := (7 : Byte).toNat, function := some 0x41 } = some entryA ∧
      (∀ p ∈ [entryA], p.key ≠ { node := (0 : Byte).toNat, function := some 0 }) ∧ 63 < (64 : Byte).toNat ∧
      1 < (2 : Byte).toNat ∧ (1 : Byte) ≠ 0 ∧ ([] : List Byte).length ≠ 3 :=
  ⟨fun _ => asked_first _ _ _ sevenUsed_free, by decide⟩

/-- Tags 6, 1, 3, 4 and 5 of the busy part, by the state of their exchanges; a CONCLUDED one; and a tag that none has. -/
theorem witness_CancelExchange :
    (∀ tag, (asked busy 0x12 [tag]).directiveFirst (directive9 0x12 [tag]) 0x12) ∧
      (∀ i j e f tag, busy.slot i = some e → busy.slot j = some f → e.origin = .head tag → f.origin = .head tag → j = i) ∧
      (∃ e, busy.slot 6 = some e ∧ e.origin = .head 6 ∧ e.state = .waiting) ∧
      (∃ e, busy.slot 0 = some e ∧ e.origin = .head 1 ∧ e.state = .issued ∧ e.node ≠ 63) ∧
      (∃ e, busy.slot 2 = some e ∧ e.origin = .head 3 ∧ e.state = .issued ∧ e.node = 63) ∧
      (∃ e, busy.slot 4 = some e ∧ e.origin = .head 4 ∧ e.state = .deferred) ∧
      (∃ e, busy.slot 5 = some e ∧ e.origin = .head 5 ∧ e.state = .ready) ∧
      (∃ s : State, ∃ e, s.slot 8 = some e ∧ e.origin = .head 11 ∧ e.state = .concluded) ∧
      (63 : Byte).toNat ≤ 63 ∧ ∀ j f, busy.slot j = some f → f.origin ≠ .head 63 :=
  ⟨fun _ => asked_first _ _ _ (by decide +kernel),
    fun i j e f tag he hf ho hp => busy_tagLaw j i f e tag hf he hp ho, ⟨_, rfl, by decide⟩, ⟨_, rfl, by decide⟩,
    ⟨_, rfl, by decide⟩, ⟨_, rfl, by decide⟩, ⟨_, rfl, by decide⟩, ⟨example821, _, rfl, by decide⟩, by decide,
    fun j f h => by simpa using slots_all busy (fun _ e => e.origin != .head 63) (by decide +kernel) j f h⟩

/-- Node 5 OCCUPIED with a WAITING exchange beside, node 7 HELD, node 9 QUIET, and node 62 IDLE. -/
theorem witness_CancelNode :
    (∀ node : Byte, node.toNat ≤ 63 →
      State.ExchangeLaw (asked busy 0x13 [node]) ∧
        (asked busy 0x13 [node]).directiveFirst (directive9 0x13 [node]) 0x13) ∧
      [0, 6] = busy.slotsByAge (fun e => e.node == (5 : Byte).toNat && e.state != .concluded) ∧
      (busy.node 5).state = .occupied 0 ∧ (busy.node 7).state = .held 4 ∧
      (busy.node 9).state = .quiet (some 200000) ∧ (busy.node 62).state = .idle ∧ busy.slot 23 = none :=
  ⟨fun node _ => ⟨busy_exchangeLaw_intake _ (by simp [directive9]), asked_first _ _ _ (by decide +kernel)⟩,
    by decide +kernel⟩

/-- Fields at the ends of their ranges, with the last phase of the cycle and the first beyond it. -/
def edgeFields (phase : Nat) : ScheduleFields := ⟨.oneShot, 62, 0xFF, phase, 64, 63, List.replicate 32 0xAB⟩

/-- Entry 31 in a state with a staged copy or none. -/
def entered (st : ScheduleState) (staged : Option ScheduleFields) : State :=
  { sevenUsed with
    schedule := sevenUsed.schedule.set 31
      { ScheduleEntry.initial with state := st, live := some (edgeFields 9999), staged := staged } }

theorem entered_first (st : ScheduleState) (staged : Option ScheduleFields) (code : Byte) (arguments : List Byte) :
    (asked (entered st staged) code arguments).directiveFirst (directive9 code arguments) code :=
  asked_first _ _ _ (by show sevenUsed.controlUsed < 8; exact sevenUsed_free)

theorem witness_LoadScheduleEntry :
    (∀ st staged arguments,
      (asked (entered st staged) 0x20 arguments).directiveFirst (directive9 0x20 arguments) 0x20 ∧
        ((entered st staged).entry 31).state = st ∧ ((entered st staged).entry 31).staged = staged) ∧
      scheduleFieldsValid (edgeFields 9999) = true ∧ (edgeFields 9999).phase < 16777216 ∧
      (edgeFields 9999).phase < sevenUsed.stagedLength.getD sevenUsed.params.cycleLength ∧
      sevenUsed.stagedLength.getD sevenUsed.params.cycleLength ≤ (edgeFields 10000).phase ∧
      ∀ (k : EntryIndex) (f : ScheduleFields), scheduleFieldsValid f = true → ([] : List Byte) ≠ loadEntryImage k f :=
  ⟨fun _ _ _ => ⟨entered_first _ _ _ _, rfl, rfl⟩, by decide +kernel, by decide, by decide, by decide,
    fun _ _ _ h => by simp [loadEntryImage] at h⟩

/-- Entry 31 in each state; its phase of 9,999 below, at and above the length in force, staged lengths on both sides of it, and the
clock's phase at it and before it. -/
theorem witness_ArmDisarmClear :
    (∀ st staged code, (asked (entered st staged) code [31]).directiveFirst (directive9 code [31]) code ∧
      ((entered st staged).entry 31).state = st ∧ ((entered st staged).entry 31).staged = staged ∧
      ((entered st staged).entry 31).live = some (edgeFields 9999)) ∧
      (31 : Byte).toNat = (31 : EntryIndex).val ∧
      sevenUsed.params.cycleLength ≤ (edgeFields 10000).phase ∧ (edgeFields 9999).phase < sevenUsed.params.cycleLength ∧
      (let s : State := { sevenUsed with stagedLength := some 9999 };
        ∃ l, s.stagedLength = some l ∧ l ≤ (edgeFields 9999).phase) ∧
      (let s : State := { sevenUsed with stagedLength := some 10000 };
        ∃ l, s.stagedLength = some l ∧ (edgeFields 9999).phase < l) ∧
      (∀ l, sevenUsed.stagedLength = some l → (edgeFields 9999).phase < l) ∧
      (edgeFields 9999).phase ≤ ({ sevenUsed with phase := 9999 } : State).phase ∧
      ({ sevenUsed with phase := 9998 } : State).phase < (edgeFields 9999).phase :=
  ⟨fun _ _ _ => ⟨entered_first _ _ _ _, rfl, rfl, rfl⟩, by decide, by decide, by decide, ⟨_, rfl, by decide⟩,
    ⟨_, rfl, by decide⟩, fun _ h => (nomatch h), by decide, by decide⟩

theorem witness_Restart :
    (asked busy 0x3F []).directiveFirst (directive9 0x3F []) 0x3F ∧ (busy.entry 3).state = .armed ∧
      (busy.entry 3).staged = none ∧ (busy.entry 0).state ≠ .armed ∧
      (let s := entered .armed (some (edgeFields 0));
        (s.entry 31).state = .armed ∧ (s.entry 31).staged = some (edgeFields 0)) ∧
      Item.control ⟨.notice, 0, 0, 2, [1]⟩ ∈ sevenUsed.delivery :=
  ⟨asked_first _ _ _ (by decide +kernel), by decide +kernel, by decide +kernel, by decide +kernel, ⟨rfl, rfl⟩,
    by decide +kernel⟩

/-! ### The whole machine -/

/-- A tick, an issue's selection, a load, an admission, a cycle start with a staged length, and a flag cleared. -/
theorem witness_WhoChanges :
    (left (.tick false true true false) lines).now ≠ lines.now ∧
      ((left .issueSelection (choosing 4)).node 21).issueNumber ≠ ((choosing 4).node 21).issueNumber ∧
      (left .loadPolicy (asked lines 0x08 (policyImage entryA))).policies ≠ lines.policies ∧
      (let s : State := { lines with policies := [entryD], intake := [⟨.request, 20, 5, 0x41, []⟩] };
        (left .takeRequest s).admissionCounter ≠ s.admissionCounter) ∧
      (let s : State := { lines with phase := 9999, advanceHeld := true, stagedLength := some 5000 };
        (left .cycleStart s).params.cycleLength ≠ s.params.cycleLength) ∧
      (let s := asked (lines.raiseFlag .storeFull) 0x05 [4, 0, 1];
        (s.flag .storeFull).raised = true ∧ ((left .clearFlags s).flag .storeFull).raised = false) := by
  decide +kernel

/-- An answer changes the buffer of an open exchange. -/
theorem witness_AdmissionFieldsKept :
    (let s := awaiting entryF 0 0;
      let c := Instr.answerArrival 9 0 0x30 (List.replicate 20 7);
      exec c s = .next (left c s) ∧ (s.slot 6).isSome = true ∧
        ((left c s).slot 6).map Exchange.buffer = some (List.replicate 20 7)) :=
  ⟨rfl, rfl, by decide +kernel⟩

/-- A CONCLUDED record freed by the completion of its OUTCOME, and one that a step leaves. -/
theorem witness_ConclusionStands :
    State.ExchangeLaw (delivering [.conclusion 3]) ∧
      exec .outcomeTransmitCompletion (delivering [.conclusion 3]) =
        .next (left .outcomeTransmitCompletion (delivering [.conclusion 3])) ∧
      (∃ e, (delivering [.conclusion 3]).slot 3 = some e ∧ e.state = .concluded) ∧
      (left .outcomeTransmitCompletion (delivering [.conclusion 3])).slot 3 = none ∧ busyFull.ExchangeLaw ∧
      exec (.answerWindowExpiry 0) busyFull = .next (left (.answerWindowExpiry 0) busyFull) :=
  ⟨{ busy_exchangeLaw with intake := fun _ h => nomatch h }, rfl, ⟨_, rfl, rfl⟩, by decide +kernel,
    { busy_exchangeLaw with }, rfl⟩

theorem witness_ImagesRoundTrip :
    policyValid entryE = true ∧ policyOfImage (policyImage entryE) ≠ none ∧ (63 : Nat) ≤ 63 ∧
      keyOfImage [63, 1, 0] ≠ none ∧ parametersValid edgeParameters = true ∧
      parametersOfImage (parameterImage edgeParameters) ≠ none ∧ scheduleFieldsValid (edgeFields 16777215) = true ∧
      (edgeFields 16777215).phase < 16777216 ∧ loadEntryOfImage (loadEntryImage 31 (edgeFields 16777215)) ≠ none := by
  decide +kernel

/-- The busy part's sequences are distinct and within half the range of 0; slot 4 joins its pending order. -/
theorem witness_AgeOrder :
    (∀ i e, busy.slot i = some e → (e.admissionSeq - 0).toNat < 2 ^ 31) ∧
      (∀ i j e f, busy.slot i = some e → busy.slot j = some f → e.admissionSeq = f.admissionSeq → i = j) ∧
      4 ∉ busy.pendingOrder ∧ (∀ j ∈ busy.pendingOrder, busy.slot j ≠ none) ∧
      busy.pendingOrder.Pairwise fun i j => olderSeq (busy.sequenceOf i) (busy.sequenceOf j) = true := by
  refine ⟨fun i e h => ?_, fun i j e f he hf hs => ?_, by decide +kernel, by decide +kernel, by decide +kernel⟩
  · exact of_decide_eq_true
      (slots_all busy (fun _ e => decide ((e.admissionSeq - 0).toNat < 2 ^ 31)) (by decide +kernel) i e h)
  · have h : ∀ i j : Slot, (busy.slot i).map Exchange.admissionSeq = none ∨
        (busy.slot i).map Exchange.admissionSeq ≠ (busy.slot j).map Exchange.admissionSeq ∨ i = j := by
      decide +kernel
    simpa [he, hf, hs] using h i j

end Sys2Proof.Tests
end

