-- ==== Sys2Proof/Proofs/Directives.lean ====
section
/-! The taking of a directive (R21, R22, R24), in the terms of the statements, and the directives settled from it. -/

namespace Sys2Proof.Machine

/-! ## The taking -/

/-- A directive of its code that stands first with a control place free executes on the taken state, and its ACKNOWLEDGE is
placed behind what it placed (R21, R22, R24). -/
theorem directive_of_first {s : State} {d : Frame} {code : Byte} {body : List Byte → State → Reply}
    (h : s.directiveFirst d code) :
    s.directive code body =
      .next ((body d.payload s.taken).state.place
        (acknowledgeFrame d (body d.payload s.taken).status (body d.payload s.taken).result)) := by
  obtain ⟨hfirst, hkind, hcode, hplace⟩ := h
  obtain ⟨rest, hintake⟩ := List.head?_eq_some_iff.mp hfirst
  exact directive_taken hintake hkind hcode (s.controlFree_iff.mpr hplace)

/-- The taking and the ACKNOWLEDGE are all that a directive without another effect leaves (R13, R22, R24). -/
theorem State.taken_place_acknowledge (s : State) (d : Frame) (status : AckStatus) (result : List Byte) :
    s.taken.place (acknowledgeFrame d status result) = s.acknowledged d status result := rfl

/-- A directive whose execution leaves the taken state as it is only answers (R13, R22, R24). -/
theorem directive_acknowledged {s : State} {d : Frame} {code : Byte} {body : List Byte → State → Reply}
    {status : AckStatus} {result : List Byte} (h : s.directiveFirst d code)
    (hbody : body d.payload s.taken = { state := s.taken, status := status, result := result }) :
    s.directive code body = .next (s.acknowledged d status result) := by
  rw [directive_of_first h, hbody, State.taken_place_acknowledge]

/-- With Length 0 a directive without arguments executes its body (R25). -/
@[simp] theorem noArguments_nil (body : State → Reply) (s : State) : noArguments body [] s = body s := rfl

/-! ## Fetch Identity -/

theorem exec_fetchIdentity (s : State) : exec .fetchIdentity s = execFetchIdentity s := rfl

/-- Settles O44: the body answers the identity from any state and hands the taken state on, so what is left is the taking and the
ACKNOWLEDGE (R27). -/
theorem fetchIdentity : Obligations.FetchIdentity := by
  intro s d hfirst hpayload
  rw [exec_fetchIdentity]
  have hbody : noArguments (fun u => Reply.done u identityResult) d.payload s.taken =
      { state := s.taken, status := .done, result := identityResult } := by
    rw [hpayload, noArguments_nil, Reply.done]
  exact directive_acknowledged hfirst hbody

end Sys2Proof.Machine
end

/-! The Policy Table (chapter 3): the bytes of a key and of a policy image and what is read back from them, the table key by key,
and the lookup and the policy directives settled from these. -/

namespace Sys2Proof.Machine

/-! ## Bytes -/

@[simp] theorem byte_toNat (b : Byte) : byte b.toNat = b := by
  simp [byte]

/-- A number below 256 is the one its byte holds. -/
theorem byte_eq_iff {n : Nat} (h : n < 256) (b : Byte) : byte n = b ↔ n = b.toNat := by
  rw [byte, ← BitVec.toNat_inj, BitVec.toNat_ofNat, Nat.mod_eq_of_lt h]

/-- A number below the range of four bytes is the one they spell, high byte first (R1). -/
theorem beBytes_four_eq_iff {n : Nat} (h : n < 2 ^ 32) (a b c d : Byte) :
    beBytes 4 n = [a, b, c, d] ↔ n = beNat [a, b, c, d] := by
  have := a.isLt
  have := b.isLt
  have := c.isLt
  have := d.isLt
  simp only [beBytes, beNat, List.foldl_cons, List.foldl_nil, List.cons.injEq, and_true, ← BitVec.toNat_inj,
    BitVec.toNat_ofNat]
  omega

@[simp] theorem length_beBytes (width n : Nat) : (beBytes width n).length = width := by
  induction width with
  | zero => rfl
  | succ width ih => simp [beBytes, ih]

/-! ## Codes of a policy image (R15) -/

theorem longActionOf_eq_some {n : Nat} {a : LongAction} : longActionOf n = some a ↔ n = longActionCode a := by
  unfold longActionOf
  split <;> cases a <;> simp_all [longActionCode]

theorem shortActionOf_eq_some {n : Nat} {a : ShortAction} : shortActionOf n = some a ↔ n = shortActionCode a := by
  unfold shortActionOf
  split <;> cases a <;> simp_all [shortActionCode]

theorem backoffOf_eq_some {n : Nat} {a : Backoff} : backoffOf n = some a ↔ n = backoffCode a := by
  unfold backoffOf
  split <;> cases a <;> simp_all [backoffCode]

theorem longActionCode_lt (a : LongAction) : longActionCode a < 256 := by
  cases a <;> decide

theorem shortActionCode_lt (a : ShortAction) : shortActionCode a < 256 := by
  cases a <;> decide

theorem backoffCode_lt (a : Backoff) : backoffCode a < 256 := by
  cases a <;> decide

/-! ## Keys -/

@[simp] theorem length_keyImage (k : PolicyKey) : (keyImage k).length = 3 := by
  unfold keyImage
  split <;> rfl

/-- Three bytes are the image of a key exactly when they spell its node and its function kind, the function byte being 0 for any
function (R15, R43). -/
theorem keyImage_eq_iff {k : PolicyKey} (hnode : k.node ≤ 63) (a b c : Byte) :
    keyImage k = [a, b, c] ↔
      k.node = a.toNat ∧ (b = 0 ∧ k.function = some c ∨ b = 1 ∧ c = 0 ∧ k.function = none) := by
  have hbyte := byte_eq_iff (show k.node < 256 by omega) a
  unfold keyImage
  cases k.function with
  | some f => simp [hbyte, eq_comm (a := b)]
  | none => simp [hbyte, eq_comm (a := b), eq_comm (a := c)]

/-- What three bytes read as: a key of one function, a key of any function, or no key (R43). -/
theorem keyOfImage_three (a b c : Byte) :
    keyOfImage [a, b, c] =
      if 63 < a.toNat then none
      else if b = 0 then some { node := a.toNat, function := some c }
      else if b = 1 ∧ c = 0 then some { node := a.toNat, function := none }
      else none := by
  have hzero (x : Byte) : x = 0 ↔ x.toNat = 0 := BitVec.toNat_inj.symm
  have hone : b = 1 ↔ b.toNat = 1 := BitVec.toNat_inj.symm
  simp only [keyOfImage, byteAt, List.getD_cons_zero, List.getD_cons_succ, hzero, hone, List.length_cons, List.length_nil]
  split
  · contradiction
  · split
    · rfl
    · split <;> simp_all

/-- A key in range reads from exactly its own image (R15, R43). -/
theorem keyOfImage_eq_some {bytes : List Byte} {k : PolicyKey} :
    keyOfImage bytes = some k ↔ keyImage k = bytes ∧ k.node ≤ 63 := by
  by_cases hlen : bytes.length = 3
  · obtain ⟨a, b, c, rfl⟩ := List.length_eq_three.mp hlen
    rw [and_congr_left fun hnode => keyImage_eq_iff hnode a b c, keyOfImage_three]
    obtain ⟨node, function⟩ := k
    split_ifs <;> grind
  · have hne : keyImage k ≠ bytes := fun h => hlen (h ▸ length_keyImage k)
    simp [keyOfImage, hlen, hne]

/-- Bytes are out of range as a key exactly when no key in range has them as its image (R43). -/
theorem keyOfImage_eq_none {bytes : List Byte} :
    keyOfImage bytes = none ↔ ∀ k : PolicyKey, k.node ≤ 63 → bytes ≠ keyImage k := by
  rw [Option.eq_none_iff_forall_ne_some]
  simp only [ne_eq, keyOfImage_eq_some, not_and', eq_comm (b := bytes)]

/-! ## Policy images -/

@[simp] theorem length_policyImage (p : Policy) : (policyImage p).length = 23 := by
  simp [policyImage]

/-- The first three bytes of a policy image are its key (R15). -/
theorem take_three_policyImage (p : Policy) : (policyImage p).take 3 = keyImage p.key := by
  simp [policyImage]

theorem policyValid_node {p : Policy} (h : policyValid p = true) : p.key.node ≤ 63 := by
  simp only [policyValid, Bool.and_eq_true, decide_eq_true_eq] at h
  omega

/-- The value fields of a policy as the bytes of an image hold them at their offsets (R15). -/
def ValuesAt (bytes : List Byte) (p : Policy) : Prop :=
  p.nominal = byteAt bytes 3 ∧ p.minimum = byteAt bytes 4 ∧ p.maximum = byteAt bytes 5 ∧
    longActionCode p.longAction = byteAt bytes 6 ∧ shortActionCode p.shortAction = byteAt bytes 7 ∧
    p.answerWindow = fieldAt bytes 8 4 ∧ p.lifetime = fieldAt bytes 12 4 ∧
    p.deferLimit = byteAt bytes 16 ∧ p.silentLimit = byteAt bytes 17 ∧
    p.baseDelay = fieldAt bytes 18 4 ∧ backoffCode p.backoff = byteAt bytes 22

/-- The bytes of a policy's image are its key's image and its value fields, each within the bytes it has there (R15, R42). -/
theorem policyImage_eq_iff {bytes : List Byte} {p : Policy} (hlen : bytes.length = 23) (hvalid : policyValid p = true) :
    policyImage p = bytes ↔ keyImage p.key = bytes.take 3 ∧ ValuesAt bytes p := by
  simp only [policyValid, Bool.and_eq_true, decide_eq_true_eq] at hvalid
  obtain ⟨⟨⟨⟨⟨-, hlengths⟩, hwindow⟩, hlifetime⟩, hlimits⟩, hdelay⟩ := hvalid
  obtain ⟨_, _, _, hkey⟩ := List.length_eq_three.mp (length_keyImage p.key)
  match bytes, hlen with
  | [k0, k1, k2, b3, b4, b5, b6, b7, b8, b9, b10, b11, b12, b13, b14, b15, b16, b17, b18, b19, b20, b21, b22], _ =>
    have hwindowBytes := beBytes_four_eq_iff (show p.answerWindow < 2 ^ 32 by omega) b8 b9 b10 b11
    have hlifetimeBytes := beBytes_four_eq_iff (show p.lifetime < 2 ^ 32 by omega) b12 b13 b14 b15
    have hdelayBytes := beBytes_four_eq_iff (show p.baseDelay < 2 ^ 32 by omega) b18 b19 b20 b21
    have hnominalByte := byte_eq_iff (show p.nominal < 256 by omega)
    have hminimumByte := byte_eq_iff (show p.minimum < 256 by omega)
    have hmaximumByte := byte_eq_iff (show p.maximum < 256 by omega)
    have hdeferByte := byte_eq_iff (show p.deferLimit < 256 by omega)
    have hsilentByte := byte_eq_iff (show p.silentLimit < 256 by omega)
    simp only [beBytes] at hwindowBytes hlifetimeBytes hdelayBytes
    simp [policyImage, hkey, beBytes, ValuesAt, byteAt, fieldAt, ← hwindowBytes, ← hlifetimeBytes, ← hdelayBytes,
      hnominalByte, hminimumByte, hmaximumByte, hdeferByte, hsilentByte, byte_eq_iff (longActionCode_lt _),
      byte_eq_iff (shortActionCode_lt _), byte_eq_iff (backoffCode_lt _), and_assoc]

/-- A policy reads from bytes that hold its key and its value fields, if it is valid (R43). -/
theorem policyOfImage_eq_some_iff_valuesAt {bytes : List Byte} {p : Policy} (hlen : bytes.length = 23) :
    policyOfImage bytes = some p ↔
      keyOfImage (bytes.take 3) = some p.key ∧ ValuesAt bytes p ∧ policyValid p = true := by
  unfold policyOfImage ValuesAt
  rw [if_neg (not_not.mpr hlen)]
  constructor
  · intro h
    split at h
    · next key long short backoff hkey hlong hshort hbackoff =>
      obtain ⟨hvalid, hp⟩ := Option.ite_none_right_eq_some.mp h
      obtain rfl := Option.some.inj hp
      have hlong := longActionOf_eq_some.mp hlong
      have hshort := shortActionOf_eq_some.mp hshort
      have hbackoff := backoffOf_eq_some.mp hbackoff
      exact ⟨hkey, ⟨rfl, rfl, rfl, hlong.symm, hshort.symm, rfl, rfl, rfl, rfl, rfl, hbackoff.symm⟩, hvalid⟩
    · cases h
  · rintro ⟨hkey, ⟨hnominal, hminimum, hmaximum, hlong, hshort, hwindow, hlifetime, hdefer, hsilent, hdelay, hbackoff⟩, hvalid⟩
    rw [hkey, longActionOf_eq_some.mpr hlong.symm, shortActionOf_eq_some.mpr hshort.symm,
      backoffOf_eq_some.mpr hbackoff.symm]
    simp only [← hnominal, ← hminimum, ← hmaximum, ← hwindow, ← hlifetime, ← hdefer, ← hsilent, ← hdelay, hvalid, if_true]

/-- A valid policy reads from exactly its own image (R15, R43). -/
theorem policyOfImage_eq_some {bytes : List Byte} {p : Policy} :
    policyOfImage bytes = some p ↔ policyImage p = bytes ∧ policyValid p = true := by
  by_cases hlen : bytes.length = 23
  · rw [policyOfImage_eq_some_iff_valuesAt hlen, keyOfImage_eq_some, and_congr_left (policyImage_eq_iff hlen)]
    have hnode := policyValid_node (p := p)
    tauto
  · have hne : policyImage p ≠ bytes := fun h => hlen (h ▸ length_policyImage p)
    simp [policyOfImage, hlen, hne]

/-- Bytes are no valid image exactly when no valid policy has them as its image (R43). -/
theorem policyOfImage_eq_none {bytes : List Byte} :
    policyOfImage bytes = none ↔ ∀ p, policyValid p = true → bytes ≠ policyImage p := by
  rw [Option.eq_none_iff_forall_ne_some]
  simp only [ne_eq, policyOfImage_eq_some, not_and', eq_comm (b := bytes)]

/-! ## The table, key by key -/

/-- The entry found under a key stands in the table and has exactly this key (R41). -/
theorem mem_and_key_of_findPolicy {table : List Policy} {k : PolicyKey} {p : Policy} (h : findPolicy table k = some p) :
    p ∈ table ∧ p.key = k :=
  ⟨List.mem_of_find?_eq_some h, by simpa using List.find?_some h⟩

theorem findPolicy_eq_none {table : List Policy} {k : PolicyKey} : findPolicy table k = none ↔ ∀ p ∈ table, p.key ≠ k := by
  simp [findPolicy]

theorem findPolicy_isSome {table : List Policy} {k : PolicyKey} :
    (findPolicy table k).isSome = true ↔ ∃ p ∈ table, p.key = k := by
  simp [findPolicy]

theorem findPolicy_cons (q : Policy) (table : List Policy) (k : PolicyKey) :
    findPolicy (q :: table) k = if q.key = k then some q else findPolicy table k := by
  simp only [findPolicy, List.find?_cons]
  split <;> simp_all

/-- Where no two entries hold the same key, the entry of a key is the one that is found (R40). -/
theorem findPolicy_eq_some {table : List Policy} (hkeys : table.Pairwise fun p q => p.key ≠ q.key) {k : PolicyKey}
    {p : Policy} : findPolicy table k = some p ↔ p ∈ table ∧ p.key = k := by
  refine ⟨mem_and_key_of_findPolicy, ?_⟩
  induction table with
  | nil => simp
  | cons q table ih =>
    obtain ⟨hq, hrest⟩ := List.pairwise_cons.mp hkeys
    rintro ⟨hmem, hkey⟩
    rw [findPolicy_cons]
    rcases List.mem_cons.mp hmem with rfl | hmem
    · rw [if_pos hkey]
    · rw [if_neg (hkey ▸ hq p hmem), ih hrest ⟨hmem, hkey⟩]

/-- Storing an entry puts it under its key and leaves every other key its entry (R47). -/
theorem findPolicy_storePolicy (p : Policy) (table : List Policy) (k : PolicyKey) :
    findPolicy (storePolicy p table) k = if p.key = k then some p else findPolicy table k := by
  induction table with
  | nil => rw [storePolicy, findPolicy_cons]
  | cons q table ih =>
    by_cases hsame : q.key = p.key
    · rw [storePolicy, if_pos hsame, findPolicy_cons, findPolicy_cons, hsame]
      split_ifs <;> rfl
    · by_cases hbefore : keyRank p.key < keyRank q.key
      · rw [storePolicy, if_neg hsame, if_pos hbefore, findPolicy_cons]
      · rw [storePolicy, if_neg hsame, if_neg hbefore, findPolicy_cons, findPolicy_cons, ih]
        grind

theorem length_storePolicy_of_absent {p : Policy} {table : List Policy} (h : ∀ q ∈ table, q.key ≠ p.key) :
    (storePolicy p table).length = table.length + 1 := by
  induction table with
  | nil => rfl
  | cons q table ih =>
    obtain ⟨hq, hrest⟩ := List.forall_mem_cons.mp h
    rw [storePolicy, if_neg hq]
    split
    · rfl
    · simp [ih hrest]

/-- In a table in its canonical order an entry under a present key takes that entry's place (R47). -/
theorem length_storePolicy_of_present {p : Policy} {table : List Policy}
    (hsorted : table.Pairwise fun q r => keyRank q.key < keyRank r.key) (h : ∃ q ∈ table, q.key = p.key) :
    (storePolicy p table).length = table.length := by
  induction table with
  | nil => simp at h
  | cons q table ih =>
    obtain ⟨hq, hrest⟩ := List.pairwise_cons.mp hsorted
    rw [storePolicy]
    split_ifs with hsame hbefore
    · rfl
    · obtain ⟨r, hr, hkey⟩ := h
      rcases List.mem_cons.mp hr with rfl | hr
      · contradiction
      · have := hkey ▸ hq r hr
        omega
    · simp [ih hrest (by simpa [hsame] using h)]

theorem dropPolicyKey_cons (q : Policy) (table : List Policy) (k : PolicyKey) :
    dropPolicyKey (q :: table) k = if q.key = k then dropPolicyKey table k else q :: dropPolicyKey table k := by
  by_cases h : q.key = k <;> simp [dropPolicyKey, h]

/-- A drop leaves nothing under its key and every other key its entry (R48). -/
theorem findPolicy_dropPolicyKey (table : List Policy) (k j : PolicyKey) :
    findPolicy (dropPolicyKey table k) j = if j = k then none else findPolicy table j := by
  induction table with
  | nil => simp [dropPolicyKey, findPolicy]
  | cons q table ih =>
    by_cases hq : q.key = k
    · rw [dropPolicyKey_cons, if_pos hq, ih, findPolicy_cons]
      grind
    · rw [dropPolicyKey_cons, if_neg hq, findPolicy_cons, findPolicy_cons, ih]
      grind

/-- A drop whose key is not present leaves the table as it is (R48). -/
theorem dropPolicyKey_of_absent {table : List Policy} {k : PolicyKey} (h : ∀ q ∈ table, q.key ≠ k) :
    dropPolicyKey table k = table :=
  List.filter_eq_self.mpr fun q hq => bne_iff_ne.mpr (h q hq)

/-- Where no two entries hold the same key, the drop of a present key removes one entry (R48). -/
theorem length_dropPolicyKey {table : List Policy} (hkeys : table.Pairwise fun p q => p.key ≠ q.key) {k : PolicyKey}
    (h : ∃ q ∈ table, q.key = k) : (dropPolicyKey table k).length + 1 = table.length := by
  induction table with
  | nil => simp at h
  | cons q table ih =>
    obtain ⟨hq, hrest⟩ := List.pairwise_cons.mp hkeys
    by_cases hkey : q.key = k
    · rw [dropPolicyKey_cons, if_pos hkey, dropPolicyKey_of_absent fun p hp => hkey ▸ (hq p hp).symm, List.length_cons]
    · rw [dropPolicyKey_cons, if_neg hkey, List.length_cons, ih hrest (by simpa [hkey] using h), List.length_cons]

/-- A table in its canonical order holds no key twice (R40, log 11). -/
theorem State.PolicyLaw.distinct {s : State} (h : s.PolicyLaw) : s.policies.Pairwise fun p q => p.key ≠ q.key :=
  h.sorted.imp fun hlt hkey => by simp [hkey] at hlt

/-! ## The lookup -/

theorem lookupPolicy_eq (table : List Policy) (n : Nat) (f : Byte) :
    lookupPolicy table n f =
      (findPolicy table { node := n, function := some f } <|>
        findPolicy table { node := n, function := none } <|>
        findPolicy table { node := 0, function := some f } <|>
        findPolicy table { node := 0, function := none }) := by
  have hcons (k : PolicyKey) (keys : List PolicyKey) :
      (k :: keys).findSome? (findPolicy table) = (findPolicy table k <|> keys.findSome? (findPolicy table)) := by
    rw [List.findSome?_cons]
    cases findPolicy table k <;> rfl
  rw [lookupPolicy, lookupKeys, hcons, hcons, hcons, List.findSome?_singleton]

/-- The key that a lookup matches is of the node or of any node, and of the function or of any function (R44, R45). -/
theorem key_of_lookupPolicy {table : List Policy} {n : Nat} {f : Byte} {p : Policy} (h : lookupPolicy table n f = some p) :
    (p.key.node = n ∨ p.key.node = 0) ∧ (p.key.function = some f ∨ p.key.function = none) := by
  obtain ⟨k, hk, hfind⟩ := List.exists_of_findSome?_eq_some h
  obtain ⟨-, rfl⟩ := mem_and_key_of_findPolicy hfind
  simp only [lookupKeys, List.mem_cons, List.not_mem_nil, or_false] at hk
  rcases hk with hk | hk | hk | hk <;> simp [hk]

/-- What stands under a key does not depend on the order of the table, so neither does what a lookup matches (R40, R44). -/
theorem lookupPolicy_perm {table other : List Policy} (hperm : table.Perm other)
    (hkeys : table.Pairwise fun p q => p.key ≠ q.key) (n : Nat) (f : Byte) :
    lookupPolicy table n f = lookupPolicy other n f := by
  have hother : other.Pairwise fun p q => p.key ≠ q.key := hkeys.perm hperm Ne.symm
  have hfind : findPolicy table = findPolicy other := by
    funext k
    ext p
    rw [findPolicy_eq_some hkeys, findPolicy_eq_some hother, hperm.mem_iff]
  rw [lookupPolicy, hfind, lookupPolicy]

/-- Settles O42: the four keys are tried in order, and each answer is the one entry of its key. -/
theorem lookupPrecedence : Obligations.LookupPrecedence :=
  ⟨lookupPolicy_eq, fun _ _ _ => mem_and_key_of_findPolicy, fun _ _ => findPolicy_eq_none, fun _ _ _ _ => key_of_lookupPolicy,
    fun _ _ n f hperm hkeys => lookupPolicy_perm hperm hkeys n f⟩

/-! ## Read Policy -/

theorem exec_readPolicy (s : State) : exec .readPolicy s = s.directive 0x0A readPolicyBody := rfl

/-- Key bytes out of range make Read Policy answer BAD ARGUMENT (R43, R49). -/
theorem readPolicy_badArgument {s : State} {d : Frame} (hfirst : s.directiveFirst d 0x0A) (hkey : keyOfImage d.payload = none) :
    exec .readPolicy s = .next (s.acknowledged d .badArgument []) := by
  rw [exec_readPolicy]
  exact directive_acknowledged hfirst (by simp [readPolicyBody, hkey, Reply.only])

/-- Settles O50: three bytes that spell a key in range read as this key, whose entry is the one answered; bytes that read as no key
are a bad argument. -/
theorem readPolicy : Obligations.ReadPolicy := by
  intro s d hfirst
  refine ⟨fun a b c k hpayload hrange hnode hkind => ?_, fun a b c hpayload hout => ?_, fun hlen => ?_⟩
  · have himage : keyImage k = d.payload := hpayload ▸ (keyImage_eq_iff (hnode ▸ hrange) a b c).mpr ⟨hnode, hkind⟩
    have hkey : keyOfImage d.payload = some k := keyOfImage_eq_some.mpr ⟨himage, hnode ▸ hrange⟩
    rw [exec_readPolicy]
    refine ⟨fun p hp => ⟨?_, ?_, ?_, length_policyImage p⟩, fun hnone => ?_⟩
    · exact directive_acknowledged hfirst (by simp [readPolicyBody, hkey, hp, Reply.done])
    · exact (mem_and_key_of_findPolicy hp).2
    · rw [take_three_policyImage, (mem_and_key_of_findPolicy hp).2, himage]
    · have habsent := findPolicy_eq_none.mpr hnone
      exact directive_acknowledged hfirst (by simp [readPolicyBody, hkey, habsent, Reply.only])
  · refine readPolicy_badArgument hfirst ?_
    rw [hpayload, keyOfImage_three]
    rcases hout with hnode | hkind | ⟨rfl, hfunction⟩
    · rw [if_pos hnode]
    · have hzero : b ≠ 0 := by rintro rfl; contradiction
      have hone : b ≠ 1 := by rintro rfl; contradiction
      simp only [hzero, hone, false_and, if_false, ite_self]
    · have hone : (1 : Byte) ≠ 0 := by decide
      simp only [hone, hfunction, and_false, if_false, ite_self]
  · refine readPolicy_badArgument hfirst (keyOfImage_eq_none.mpr fun k _ himage => hlen ?_)
    rw [himage, length_keyImage]

/-! ## Load Policy and Drop Policy -/

/-- A directive that leaves the taken state with another table and answers a status alone (R47, R48). -/
theorem directive_acknowledged_table {s : State} {d : Frame} {code : Byte} {body : List Byte → State → Reply}
    {table : List Policy} {status : AckStatus} (h : s.directiveFirst d code)
    (hbody : body d.payload s.taken = Reply.only { s.taken with policies := table } status) :
    s.directive code body = .next (State.acknowledged { s with policies := table } d status []) := by
  rw [directive_of_first h, hbody]
  rfl

theorem exec_loadPolicy (s : State) : exec .loadPolicy s = s.directive 0x08 loadPolicyBody := rfl

theorem exec_dropPolicy (s : State) : exec .dropPolicy s = s.directive 0x09 dropPolicyBody := rfl

theorem loadPolicyBody_of_present {s : State} {p : Policy} (hvalid : policyValid p = true)
    (hpresent : ∃ q ∈ s.policies, q.key = p.key) :
    loadPolicyBody (policyImage p) s = Reply.only { s with policies := storePolicy p s.policies } .replaced := by
  simp [loadPolicyBody, policyOfImage_eq_some.mpr ⟨rfl, hvalid⟩, findPolicy_isSome.mpr hpresent]

theorem loadPolicyBody_of_room {s : State} {p : Policy} (hvalid : policyValid p = true)
    (habsent : ∀ q ∈ s.policies, q.key ≠ p.key) (hroom : s.policies.length < 128) :
    loadPolicyBody (policyImage p) s = Reply.only { s with policies := storePolicy p s.policies } .done := by
  simp [loadPolicyBody, policyOfImage_eq_some.mpr ⟨rfl, hvalid⟩, findPolicy_eq_none.mpr habsent, Config.policyCapacity, hroom]

theorem loadPolicyBody_of_full {s : State} {p : Policy} (hvalid : policyValid p = true)
    (habsent : ∀ q ∈ s.policies, q.key ≠ p.key) (hfull : 128 ≤ s.policies.length) :
    loadPolicyBody (policyImage p) s = Reply.only s .tableFull := by
  simp [loadPolicyBody, policyOfImage_eq_some.mpr ⟨rfl, hvalid⟩, findPolicy_eq_none.mpr habsent, Config.policyCapacity,
    not_lt.mpr hfull]

/-- What a Load Policy that stores its entry leaves: the entry under its key, and every other key as it was (R47). -/
theorem loadPolicy_stores {s : State} {d : Frame} {p : Policy} {status : AckStatus} {count : Nat}
    (hfirst : s.directiveFirst d 0x08) (hlength : (storePolicy p s.policies).length = count)
    (hbody : loadPolicyBody d.payload s.taken =
      Reply.only { s.taken with policies := storePolicy p s.policies } status) :
    ∃ t, exec .loadPolicy s = .next t ∧ t = State.acknowledged { s with policies := t.policies } d status [] ∧
      t.policies.length = count ∧ findPolicy t.policies p.key = some p ∧
      ∀ k, k ≠ p.key → findPolicy t.policies k = findPolicy s.policies k := by
  have hfind (k : PolicyKey) := findPolicy_storePolicy p s.policies k
  rw [exec_loadPolicy]
  refine ⟨_, directive_acknowledged_table hfirst hbody, rfl, hlength, ?_, fun k hk => ?_⟩
  · exact (hfind p.key).trans (if_pos rfl)
  · exact (hfind k).trans (if_neg hk.symm)

/-- What a Drop Policy that finds its key leaves: one entry fewer, none under the key, and every other key as it was (R48). -/
theorem dropPolicy_removes {s : State} {d : Frame} {k : PolicyKey} (hlaw : s.PolicyLaw) (hfirst : s.directiveFirst d 0x09)
    (hkey : keyOfImage d.payload = some k) (hpresent : ∃ q ∈ s.policies, q.key = k) :
    ∃ t, exec .dropPolicy s = .next t ∧ t = State.acknowledged { s with policies := t.policies } d .done [] ∧
      t.policies.length + 1 = s.policies.length ∧ findPolicy t.policies k = none ∧
      ∀ j, j ≠ k → findPolicy t.policies j = findPolicy s.policies j := by
  have hfind (j : PolicyKey) := findPolicy_dropPolicyKey s.policies k j
  have hbody : dropPolicyBody d.payload s.taken =
      Reply.only { s.taken with policies := dropPolicyKey s.policies k } .done := by
    simp [dropPolicyBody, hkey, findPolicy_isSome.mpr hpresent]
  rw [exec_dropPolicy]
  refine ⟨_, directive_acknowledged_table hfirst hbody, rfl, length_dropPolicyKey hlaw.distinct hpresent, ?_, fun j hj => ?_⟩
  · exact (hfind k).trans (if_pos rfl)
  · exact (hfind j).trans (if_neg hj)

/-- Settles O49: what each directive leaves in the table, key by key, and the answers that leave the table as it is. -/
theorem loadAndDropPolicy : Obligations.LoadAndDropPolicy := by
  refine ⟨fun s d p hlaw hfirst hpayload hvalid => ⟨fun hpresent => ?replaced, fun habsent hroom => ?stored,
      fun habsent hfull => ?tableFull⟩, fun s d hfirst hinvalid => ?badImage,
    fun s d k hlaw hfirst hpayload hnode => ⟨fun hpresent => ?dropped, fun habsent => ?notFound⟩,
    fun s d hfirst hinvalid => ?badKey⟩
  case replaced =>
    exact loadPolicy_stores hfirst (length_storePolicy_of_present hlaw.sorted hpresent)
      (hpayload ▸ loadPolicyBody_of_present hvalid hpresent)
  case stored =>
    exact loadPolicy_stores hfirst (length_storePolicy_of_absent habsent)
      (hpayload ▸ loadPolicyBody_of_room hvalid habsent hroom)
  case tableFull =>
    rw [exec_loadPolicy]
    exact directive_acknowledged hfirst (hpayload ▸ loadPolicyBody_of_full hvalid habsent hfull)
  case badImage =>
    have himage := policyOfImage_eq_none.mpr hinvalid
    rw [exec_loadPolicy]
    exact directive_acknowledged hfirst (by simp [loadPolicyBody, himage, Reply.only])
  case dropped =>
    exact dropPolicy_removes hlaw hfirst (keyOfImage_eq_some.mpr ⟨hpayload.symm, hnode⟩) hpresent
  case notFound =>
    have hkey := keyOfImage_eq_some.mpr ⟨hpayload.symm, hnode⟩
    have hnone := findPolicy_eq_none.mpr habsent
    rw [exec_dropPolicy]
    exact directive_acknowledged hfirst (by simp [dropPolicyBody, hkey, hnone, Reply.only])
  case badKey =>
    have hkey := keyOfImage_eq_none.mpr hinvalid
    rw [exec_dropPolicy]
    exact directive_acknowledged hfirst (by simp [dropPolicyBody, hkey, Reply.only])

end Sys2Proof.Machine

/-! The delay before a reissue (R106): the computed delay by Backoff, the hint weighed against it, and the bounds of both. -/

namespace Sys2Proof.Machine

section
variable {p : Policy} {d hint : Nat}

/-! ## The computed delay -/

theorem computedDelay_of_flat (hflat : p.backoff = .flat) (d : Nat) : computedDelay p d = p.baseDelay := by
  rw [computedDelay, hflat]

theorem computedDelay_of_doubling (hdoubling : p.backoff = .doubling) (d : Nat) :
    computedDelay p d = min (p.baseDelay * 2 ^ (d - 1)) (16 * p.baseDelay) := by
  rw [computedDelay, hdoubling]

/-- Up to the fifth DEFER the doubled delay is not yet held back by its cap. -/
theorem computedDelay_succ_of_doubling (hdoubling : p.backoff = .doubling) {k : Nat} (hk : k ≤ 4) :
    computedDelay p (k + 1) = 2 ^ k * p.baseDelay := by
  have hpow : 2 ^ k ≤ 16 := Nat.pow_le_pow_right (n := 2) (by decide) hk
  rw [computedDelay_of_doubling hdoubling, Nat.add_sub_cancel, Nat.mul_comm]
  exact min_eq_left (Nat.mul_le_mul_right _ hpow)

/-- From the fifth DEFER on the doubled delay stands at its cap. -/
theorem computedDelay_of_doubling_of_five_le (hdoubling : p.backoff = .doubling) (hd : 5 ≤ d) :
    computedDelay p d = 16 * p.baseDelay := by
  have hpow : 16 ≤ 2 ^ (d - 1) := Nat.pow_le_pow_right (n := 2) (i := 4) (by decide) (by omega)
  rw [computedDelay_of_doubling hdoubling, Nat.mul_comm]
  exact min_eq_right (Nat.mul_le_mul_right _ hpow)

theorem baseDelay_le_computedDelay (p : Policy) (d : Nat) : p.baseDelay ≤ computedDelay p d := by
  cases hbackoff : p.backoff with
  | flat => rw [computedDelay_of_flat hbackoff]
  | doubling =>
    rw [computedDelay_of_doubling hbackoff]
    exact le_min (Nat.le_mul_of_pos_right _ (Nat.two_pow_pos _)) (by omega)

theorem computedDelay_le (p : Policy) (d : Nat) : computedDelay p d ≤ 16 * p.baseDelay := by
  cases hbackoff : p.backoff with
  | flat => rw [computedDelay_of_flat hbackoff]; omega
  | doubling => rw [computedDelay_of_doubling hbackoff]; exact min_le_right _ _

/-! ## The hint -/

theorem reissueDelay_none (p : Policy) (d : Nat) : reissueDelay p d none = computedDelay p d := rfl

theorem reissueDelay_of_le (hle : hint ≤ computedDelay p d) : reissueDelay p d (some hint) = computedDelay p d :=
  if_pos hle

theorem reissueDelay_of_lt (hlt : computedDelay p d < hint) :
    reissueDelay p d (some hint) = min hint (16 * p.baseDelay) :=
  if_neg (Nat.not_le.mpr hlt)

/-- A hint lengthens the computed delay, and never past 16 × b. -/
theorem reissueDelay_some (p : Policy) (d hint : Nat) :
    reissueDelay p d (some hint) = max (computedDelay p d) (min hint (16 * p.baseDelay)) := by
  have hcap := computedDelay_le p d
  rcases le_or_gt hint (computedDelay p d) with hle | hlt
  · rw [reissueDelay_of_le hle]
    omega
  · rw [reissueDelay_of_lt hlt]
    omega

theorem computedDelay_le_reissueDelay (p : Policy) (d : Nat) (hint : Option Nat) :
    computedDelay p d ≤ reissueDelay p d hint := by
  cases hint with
  | none => rw [reissueDelay_none]
  | some hint => rw [reissueDelay_some]; exact le_max_left _ _

theorem reissueDelay_le (p : Policy) (d : Nat) (hint : Option Nat) : reissueDelay p d hint ≤ 16 * p.baseDelay := by
  cases hint with
  | none => exact computedDelay_le p d
  | some hint => rw [reissueDelay_some]; exact max_le (computedDelay_le p d) (min_le_right _ _)

end

/-- Settles O19: the table of computed delays by Backoff, then the hint, which moves the delay only between the computed delay and
16 × b; the examples are the table's entries with a base delay of 1,000. -/
theorem reissueDelay_spec : Obligations.ReissueDelay := by
  refine ⟨fun p hflat d _ => computedDelay_of_flat hflat d, fun p hdoubling => ?table, reissueDelay_none,
    fun _ _ _ => reissueDelay_of_le, fun _ _ _ => reissueDelay_of_lt, fun p d hint _ => ?bounds,
    fun _ _ => reissueDelay_of_le (Nat.zero_le _), fun p hbase => ⟨fun hdoubling => ?doubling, fun hflat => ?flat⟩⟩
  case table =>
    have hentry {k : Nat} (hk : k ≤ 4) := computedDelay_succ_of_doubling hdoubling hk
    exact ⟨by simpa using hentry (k := 0) (by decide), hentry (k := 1) (by decide), hentry (k := 2) (by decide),
      hentry (k := 3) (by decide), fun d => computedDelay_of_doubling_of_five_le hdoubling⟩
  case bounds =>
    have hcap := reissueDelay_le p d hint
    exact ⟨(baseDelay_le_computedDelay p d).trans (computedDelay_le_reissueDelay p d hint), hcap, fun hbase => by omega⟩
  case doubling =>
    have hsecond : computedDelay p 2 = 2 * p.baseDelay := computedDelay_succ_of_doubling hdoubling (k := 1) (by decide)
    rw [reissueDelay_some, reissueDelay_some, hsecond, hbase]
    decide
  case flat =>
    rw [reissueDelay_some, computedDelay_of_flat hflat, hbase]
    decide

end Sys2Proof.Machine

/-! Frames on a line (chapter 1): the bytes a sender builds and the checks of a receiver agree, and what a port does with what
arrives and with its line's changes. -/

namespace Sys2Proof.Machine

-- One theorem at a time, as in the tests: the memory limit of the check leaves room for few threads.
set_option Elab.async false

variable {s : State} {line : Line} {bytes : List Byte} {f : Frame}

/-! ## The bytes of a frame -/

@[simp] theorem kindOfCode_kindCode (k : FrameKind) : kindOfCode (kindCode k) = some k := by
  cases k <;> decide

theorem kindCode_of_kindOfCode {code : Byte} {k : FrameKind} (h : kindOfCode code = some k) : kindCode k = code := by
  simpa using List.find?_some h

@[simp] theorem length_checkBytes (covered : List Byte) : (checkBytes covered).length = 2 :=
  length_beBytes _ _

theorem length_coveredBytes (f : Frame) : (coveredBytes f).length = 5 + f.payload.length := by
  simp [coveredBytes]
  omega

theorem length_frameBytes (f : Frame) : (frameBytes f).length = 7 + f.payload.length := by
  simp only [frameBytes, List.length_append, length_coveredBytes, length_checkBytes]
  omega

theorem frameBytes_eq (f : Frame) :
    frameBytes f =
      kindCode f.kind :: f.node :: f.tag :: f.function :: byte f.payload.length ::
        (f.payload ++ checkBytes (coveredBytes f)) := rfl

/-! ## The kinds, nodes and lengths a line accepts (R5) -/

/-- A frame of a kind, a node and a payload length that a line's port accepts (R3, R5). -/
def Accepted (line : Line) (f : Frame) : Prop :=
  line = .head ∧ (f.kind = .request ∨ f.kind = .directive ∧ f.node = 0) ∧ f.node.toNat ≤ 63 ∧ f.payload.length ≤ 240 ∨
    line = .field ∧ (f.kind = .answer ∨ f.kind = .report ∨ f.kind = .defer ∧
        (f.payload.length = 0 ∨ f.payload.length = 4)) ∧ 1 ≤ f.node.toNat ∧ f.node.toNat ≤ 62 ∧ f.payload.length ≤ 200

/-- The payload limit and the checks 5 to 9 are those of the accepted frames (R5). -/
theorem accepted_iff : Accepted line f ↔ f.payload.length ≤ payloadLimit line ∧ frameChecks line f = true := by
  obtain ⟨kind, node, tag, function, payload⟩ := f
  have hzero : node = 0 ↔ node.toNat = 0 := BitVec.toNat_inj.symm
  have hbroadcast : node = 63 ↔ node.toNat = 63 := BitVec.toNat_inj.symm
  unfold Accepted frameChecks payloadLimit
  cases line with
  | head => cases kind <;> simp [receivable] <;> grind
  | field => cases kind <;> simp [receivable] <;> grind

/-- The receive checks on the bytes of a frame whose Length is its payload's come down to the limit and the checks 5 to 9. -/
theorem judgeBytes_frameBytes (h : f.payload.length < 256) :
    judgeBytes line (frameBytes f) =
      if payloadLimit line < f.payload.length then .malformed else if frameChecks line f then .good f else .malformed := by
  have hlength : byteAt (frameBytes f) 4 = f.payload.length := by
    simp [frameBytes_eq, byteAt, byte, Nat.mod_eq_of_lt h]
  have hcovered : (frameBytes f).take (5 + f.payload.length) = coveredBytes f := by
    rw [frameBytes, ← length_coveredBytes, List.take_left]
  have hcheck : (frameBytes f).drop (5 + f.payload.length) = checkBytes (coveredBytes f) := by
    rw [frameBytes, ← length_coveredBytes, List.drop_left]
  unfold judgeBytes
  simp only [hlength, hcovered, hcheck, length_frameBytes, ne_eq, not_true_eq_false, if_false]
  simp [frameBytes_eq]

/-- Settles O9: the checks of R5 in order, each on the bytes that the sender put at that place. -/
theorem sentFrameIsReceived : Obligations.SentFrameIsReceived := by
  intro line f h
  obtain ⟨hlimit, hchecks⟩ := accepted_iff.mp h
  have hlength : f.payload.length < 256 := by cases line <;> simp only [payloadLimit] at hlimit <;> omega
  rw [judgeBytes_frameBytes hlength, if_neg (by omega), if_pos hchecks]

/-- What the verdict good says of the bytes and of the frame read from them (R5). -/
theorem judgeBytes_good (h : judgeBytes line bytes = .good f) :
    bytes.length = 7 + byteAt bytes 4 ∧
      bytes.drop (5 + byteAt bytes 4) = checkBytes (bytes.take (5 + byteAt bytes 4)) ∧
      byteAt bytes 4 ≤ payloadLimit line ∧ frameChecks line f = true ∧
      kindCode f.kind = bytes.getD 0 0 ∧ f.node = bytes.getD 1 0 ∧ f.tag = bytes.getD 2 0 ∧ f.function = bytes.getD 3 0 ∧
      f.payload = (bytes.drop 5).take (byteAt bytes 4) := by
  unfold judgeBytes at h
  simp only [ite_not] at h
  split at h
  case isFalse => cases h
  case isTrue hlength =>
    split at h
    case isFalse => cases h
    case isTrue hcheck =>
      split at h
      case isTrue => cases h
      case isFalse hlimit =>
        split at h
        case h_1 => cases h
        case h_2 kind hkind =>
          split at h
          case isFalse => cases h
          case isTrue hchecks =>
            cases h
            exact ⟨hlength, hcheck, by omega, hchecks, kindCode_of_kindOfCode hkind, rfl, rfl, rfl, rfl⟩

/-- Bytes judged good are the bytes of the frame read from them, and the line accepts it (R1, R2, R3, R5). -/
theorem eq_frameBytes_of_good (h : judgeBytes line bytes = .good f) : bytes = frameBytes f ∧ Accepted line f := by
  obtain ⟨hlength, hcheck, hlimit, hchecks, hkind, hnode, htag, hfunction, hpayload⟩ := judgeBytes_good h
  match bytes, hlength with
  | b0 :: b1 :: b2 :: b3 :: b4 :: rest, hlength =>
    simp only [byteAt, List.getD_cons_zero, List.getD_cons_succ, List.length_cons] at *
    have hpayload : f.payload = rest.take b4.toNat := by simpa using hpayload
    have hpayloadLength : f.payload.length = b4.toNat := by
      rw [hpayload, List.length_take]
      omega
    have hcovered : coveredBytes f = (b0 :: b1 :: b2 :: b3 :: b4 :: rest).take (5 + b4.toNat) := by
      rw [Nat.add_comm]
      simp [coveredBytes, hkind, hnode, htag, hfunction, hpayloadLength, ← hpayload]
    refine ⟨?_, accepted_iff.mpr ⟨hpayloadLength ▸ hlimit, hchecks⟩⟩
    rw [frameBytes, hcovered, ← hcheck, List.take_append_drop]

/-- Settles O10: the first three checks give the bytes back from Length and Check, and the others accept the frame. -/
theorem goodBytesAreOneFrame : Obligations.GoodBytesAreOneFrame := by
  intro line bytes f h
  obtain ⟨hbytes, haccepted⟩ := eq_frameBytes_of_good h
  exact ⟨hbytes, hbytes ▸ length_frameBytes f, haccepted⟩

/-! ## What arrives -/

/-- A frame that a line accepts, as its sender builds it, is counted and handed on (R6). -/
theorem arrive_of_accepted (s : State) (h : Accepted line f) : s.arrive line (frameBytes f) = (s.received line).handOn f := by
  rw [State.arrive, sentFrameIsReceived line f h]
  rfl

theorem exec_requestArrival (s : State) (n t k : Byte) (p : List Byte) :
    exec (.requestArrival n t k p) s = s.arriveFrame .head ⟨.request, n, t, k, p⟩ := rfl

theorem exec_directiveArrival (s : State) (n k : Byte) (a : List Byte) :
    exec (.directiveArrival n k a) s = s.arriveFrame .head ⟨.directive, 0, n, k, a⟩ := rfl

theorem exec_answerArrival (s : State) (n t k : Byte) (p : List Byte) :
    exec (.answerArrival n t k p) s = s.arriveReply ⟨.answer, n, t, k, p⟩ := rfl

theorem exec_deferArrival (s : State) (n t k : Byte) (p : List Byte) :
    exec (.deferArrival n t k p) s = s.arriveReply ⟨.defer, n, t, k, p⟩ := rfl

theorem exec_reportArrival (s : State) (n t k : Byte) (p : List Byte) :
    exec (.reportArrival n t k p) s = s.arriveFrame .field ⟨.report, n, t, k, p⟩ := rfl

theorem exec_malformedFrame (s : State) (line : Line) (bytes : List Byte) :
    exec (.malformedFrame line bytes) s =
      s.inTurn (s.canArrive line && !(judgeBytes line bytes).isGood) (s.arrive line bytes) := rfl

/-- An accepted frame on a line that receives is handed on (R6). -/
theorem arriveFrame_handsOn (h : s.receivingOn line) (hf : Accepted line f) :
    s.arriveFrame line f = .next ((s.received line).handOn f) := by
  obtain ⟨hcan, hturn⟩ := receivingOn_iff.mp h
  rw [State.arriveFrame, hcan, inTurn_taken hturn, arrive_of_accepted s hf]

/-- A reply that the line accepts is handed on where replies can be (R6, log 25). -/
theorem arriveReply_handsOn (h : s.receivingReply) (hf : Accepted .field f) :
    s.arriveReply f = .next ((s.received .field).handOn f) := by
  rw [State.arriveReply, receivingReply_iff.mp h, arrive_of_accepted s hf]
  rfl

/-- Bytes that are not good are judged by the port at their arrival (R5). -/
theorem malformedFrame_arrives (h : s.receivingOn line) (hbad : (judgeBytes line bytes).isGood = false) :
    exec (.malformedFrame line bytes) s = .next (s.arrive line bytes) := by
  obtain ⟨hcan, hturn⟩ := receivingOn_iff.mp h
  rw [exec_malformedFrame, hcan, hbad]
  exact inTurn_taken hturn

/-- Bytes judged malformed are counted as malformed, and the port's receive state is idle again (R5). -/
theorem malformedFrame_counts_malformed (h : s.receivingOn line) (hbad : judgeBytes line bytes = .malformed) :
    exec (.malformedFrame line bytes) s =
      .next (State.tally (s.setPort line { s.port line with receive := .idle }) (malformedCounter line)) := by
  rw [malformedFrame_arrives h (by rw [hbad]; rfl), State.arrive, hbad]
  rfl

/-- Bytes whose check fails are counted as a check error, and the port's receive state is idle again (R5). -/
theorem malformedFrame_counts_checkError (h : s.receivingOn line) (hbad : judgeBytes line bytes = .checkError) :
    exec (.malformedFrame line bytes) s =
      .next (State.tally (s.setPort line { s.port line with receive := .idle }) (checkErrorCounter line)) := by
  rw [malformedFrame_arrives h (by rw [hbad]; rfl), State.arrive, hbad]
  rfl

theorem judgeBytes_of_length_ne (h : bytes.length ≠ 7 + byteAt bytes 4) : judgeBytes line bytes = .malformed := by
  unfold judgeBytes
  exact if_pos h

theorem judgeBytes_of_check_ne (hlength : bytes.length = 7 + byteAt bytes 4)
    (hcheck : bytes.drop (5 + byteAt bytes 4) ≠ checkBytes (bytes.take (5 + byteAt bytes 4))) :
    judgeBytes line bytes = .checkError := by
  unfold judgeBytes
  exact (if_neg (not_not.mpr hlength)).trans (if_pos hcheck)

/-- Past the first two checks, bytes that are not good are malformed (R5). -/
theorem judgeBytes_of_not_good (hlength : bytes.length = 7 + byteAt bytes 4)
    (hcheck : bytes.drop (5 + byteAt bytes 4) = checkBytes (bytes.take (5 + byteAt bytes 4)))
    (hbad : ∀ f, judgeBytes line bytes ≠ .good f) : judgeBytes line bytes = .malformed := by
  unfold judgeBytes at hbad ⊢
  simp only [hlength, hcheck, ne_eq, not_true_eq_false, if_false] at hbad ⊢
  split at hbad
  · rw [if_pos ‹_›]
  · rw [if_neg ‹_›]
    split at hbad
    · rfl
    · split at hbad
      · exact absurd rfl (hbad _)
      · exact if_neg ‹_›

/-- Settles O11: one clause for each of the first two checks, and one for all the others. -/
theorem badFrameCounted : Obligations.BadFrameCounted := by
  intro s line bytes h
  refine ⟨fun hlength => ?_, fun hlength hcheck => ?_, fun hlength hcheck hbad => ?_⟩
  · exact malformedFrame_counts_malformed h (judgeBytes_of_length_ne hlength)
  · exact malformedFrame_counts_checkError h (judgeBytes_of_check_ne hlength hcheck)
  · exact malformedFrame_counts_malformed h (judgeBytes_of_not_good hlength hcheck hbad)

/-! ## The Head Intake -/

theorem accepted_request (n t k : Byte) (p : List Byte) (hn : n.toNat ≤ 63) (hp : p.length ≤ 240) :
    Accepted .head ⟨.request, n, t, k, p⟩ := .inl ⟨rfl, .inl rfl, hn, hp⟩

theorem accepted_directive (t k : Byte) (p : List Byte) (hp : p.length ≤ 240) : Accepted .head ⟨.directive, 0, t, k, p⟩ :=
  .inl ⟨rfl, .inr ⟨rfl, rfl⟩, Nat.zero_le 63, hp⟩

theorem accepted_answer (n t k : Byte) (p : List Byte) (hlow : 1 ≤ n.toNat) (hhigh : n.toNat ≤ 62) (hp : p.length ≤ 200) :
    Accepted .field ⟨.answer, n, t, k, p⟩ := .inr ⟨rfl, .inl rfl, hlow, hhigh, hp⟩

theorem accepted_report (n t k : Byte) (p : List Byte) (hlow : 1 ≤ n.toNat) (hhigh : n.toNat ≤ 62) (hp : p.length ≤ 200) :
    Accepted .field ⟨.report, n, t, k, p⟩ := .inr ⟨rfl, .inr (.inl rfl), hlow, hhigh, hp⟩

theorem accepted_defer (n t k : Byte) (p : List Byte) (hlow : 1 ≤ n.toNat) (hhigh : n.toNat ≤ 62)
    (hp : p.length = 0 ∨ p.length = 4) : Accepted .field ⟨.defer, n, t, k, p⟩ :=
  .inr ⟨rfl, .inr (.inr ⟨rfl, hp⟩), hlow, hhigh, show p.length ≤ 200 by omega⟩

theorem offer_of_room (f : Frame) (h : s.intake.length < 4) : s.offer f = { s with intake := s.intake ++ [f] } :=
  if_pos h

theorem offer_of_full (f : Frame) (h : 4 ≤ s.intake.length) :
    s.offer f = (s.tally .headOverrunDiscards).raiseFlag .headOverrun :=
  if_neg (Nat.not_lt.mpr h)

/-- Settles O14: both kinds are handed on to the Head Intake, which keeps or discards by its room. -/
theorem headFrameArrival : Obligations.HeadFrameArrival := by
  refine ⟨fun s n t k p h hn hp => ?_, fun s n k p h hp => ?_⟩
  · rw [exec_requestArrival, arriveFrame_handsOn h (accepted_request n t k p hn hp)]
    exact ⟨fun hroom => congrArg _ (offer_of_room (s := s.received .head) _ hroom),
      fun hfull => congrArg _ (offer_of_full (s := s.received .head) _ hfull)⟩
  · rw [exec_directiveArrival, arriveFrame_handsOn h (accepted_directive n k p hp)]
    exact ⟨fun hroom => congrArg _ (offer_of_room (s := s.received .head) _ hroom),
      fun hfull => congrArg _ (offer_of_full (s := s.received .head) _ hfull)⟩

/-! ## Line changes -/

/-- A command that brings a frame, or the start of one, to a DOWN line does nothing, but for the reply that arrived before the
change (R124, log 25). -/
theorem exec_of_reaches_down {c : Instr} (hdown : (s.port line).up = false) (hreach : reaches line c = true)
    (hreply : isReply c = true → s.fieldPort.receive ≠ .arrived) : exec c s = .next s := by
  have hcan : s.canArrive line = false := by simp [State.canArrive, hdown]
  have hframe (f : Frame) : s.arriveFrame line f = .next s := by simp [State.arriveFrame, hcan, State.inTurn, State.whenever]
  have hanswer (hr : isReply c = true) (hl : line = .field) (f : Frame) : s.arriveReply f = .next s := by
    subst hl
    simp [State.arriveReply, State.canReply, State.replyDue, hcan, hreply hr, State.whenever]
  cases c <;> simp only [reaches, beq_iff_eq, Bool.false_eq_true] at hreach <;> try subst hreach
  case requestArrival => exact hframe _
  case directiveArrival => exact hframe _
  case reportArrival => exact hframe _
  case answerArrival => exact hanswer rfl rfl _
  case deferArrival => exact hanswer rfl rfl _
  case malformedFrame => simp [exec_malformedFrame, hcan, State.inTurn, State.whenever]
  case startPatternSeen => simp [exec, execStartPatternSeen, hdown, State.inTurn, State.whenever]

/-- Settles O12: each change takes effect under the conditions stated, and a DOWN line takes nothing. -/
theorem lineChanges : Obligations.LineChanges := by
  refine ⟨fun s hup hrun hturn => ?headUp, fun s hup hrun hturn => ?fieldUp, fun s hup hrun hidle hturn => ?headDown,
    fun s hup hrun hcut hturn => ?headCut, fun s hup hidle hturn => ?headPattern, fun s hup hidle hturn => ?fieldPattern,
    fun s line c hdown hreach hreply => exec_of_reaches_down hdown hreach hreply⟩
  all_goals have hfree := noHanding_iff.mp hturn
  case headUp =>
    have hdue : s.headPort.upDue = true := by simp [Port.upDue, hup, Config.upTicks, hrun]
    simp only [exec, execHeadLineUp, hdue, inTurn_taken hfree, Port.raise]
  case fieldUp =>
    have hdue : s.fieldPort.upDue = true := by simp [Port.upDue, hup, Config.upTicks, hrun]
    simp only [exec, execFieldLineUp, hdue, inTurn_taken hfree, Port.raise]
  case headDown =>
    have hdue : s.headPort.downDue = true := by simp [Port.downDue, hup, Config.downTicks, hrun]
    simp only [exec, execHeadLineDown, hdue, inTurn_taken hfree, Port.lower, State.tallyCutShort, State.port, hidle, if_false]
  case headCut =>
    have hdue : s.headPort.downDue = true := by simp [Port.downDue, hup, Config.downTicks, hrun]
    simp only [exec, execHeadLineDown, hdue, inTurn_taken hfree, Port.lower, State.tallyCutShort, State.port, hcut, if_true]
    rfl
  case headPattern =>
    simp only [exec, execStartPatternSeen, State.port, hup, hidle, beq_self_eq_true, Bool.and_self, inTurn_taken hfree,
      State.setPort]
  case fieldPattern =>
    simp only [exec, execStartPatternSeen, State.port, hup, hidle, beq_self_eq_true, Bool.and_self, inTurn_taken hfree,
      State.setPort]

end Sys2Proof.Machine

/-! The step (section 0.6): the front command is executed, and a next state is the same state or an effect of that command. -/

namespace Sys2Proof.Machine

-- One theorem at a time, as in the tests: the memory limit of the check leaves room for few threads.
set_option Elab.async false

variable {s t : State}

theorem step_of_pending {c : Instr} {rest : List Instr} (h : s.pending = c :: rest) :
    step s = exec c { s with pending := rest } := by
  simp only [step, h]

theorem step_of_no_pending (h : s.pending = []) : step s = .next s := by
  simp only [step, h]

/-- Settles O1: the two cases of the queue. -/
theorem stepRunsFrontCommand : Obligations.StepRunsFrontCommand :=
  ⟨fun _ _ _ => step_of_pending, fun _ => step_of_no_pending⟩

/-- A step leaves the state or has an effect of the front command, run on the queue's rest. -/
theorem step_effect (h : step s = .next t) : t = s ∨ ∃ c rest, Effect { s with pending := rest } c t := by
  cases hp : s.pending with
  | nil =>
    rw [step_of_no_pending hp] at h
    exact .inl (Host.Outcome.next.inj h).symm
  | cons c rest =>
    rw [step_of_pending hp] at h
    exact .inr ⟨c, rest, exec_effect h⟩

/-- A law that does not read the queue and that every effect keeps, every step keeps. -/
theorem step_keeps {Law : State → Prop} (hqueue : ∀ (s : State) rest, Law s → Law { s with pending := rest })
    (heffect : ∀ {s t : State} {c : Instr}, Law s → Effect s c t → Law t) (hs : Law s) (h : step s = .next t) : Law t := by
  rcases step_effect h with rfl | ⟨c, rest, he⟩
  · exact hs
  · exact heffect (hqueue s rest hs) he

/-! ## The state after RESET# -/

@[simp] theorem State.slot_reset (i : Slot) : State.reset.slot i = none := by
  simp [State.slot, State.reset]

@[simp] theorem State.entry_reset (k : EntryIndex) : State.reset.entry k = ScheduleEntry.initial := by
  simp [State.entry, State.reset]

@[simp] theorem State.stored_reset (k : StoreIndex) : State.reset.stored k = none := by
  simp [State.stored, State.reset]

@[simp] theorem State.node_reset (n : Nat) : State.reset.node n = NodeEntry.initial := by
  unfold State.node
  cases nodeIndex n <;> simp [State.reset]

@[simp] theorem State.flag_reset (f : Flag) : State.reset.flag f = FlagRecord.clear := by
  simp [State.flag, State.reset]

@[simp] theorem State.counter_reset (c : Counter) : State.reset.counter c = 0 := by
  simp [State.counter, State.reset]

/-- Settles O2: what is read from a table after RESET#, and the other fields by definition. -/
theorem resetLeavesInitialState : Obligations.ResetLeavesInitialState := by
  refine ⟨fun _ => rfl, rfl, rfl, rfl, rfl, State.flag_reset, rfl, rfl, State.counter_reset, rfl, rfl, rfl, State.slot_reset,
    rfl, rfl, rfl, fun n _ _ => State.node_reset n, rfl, rfl, rfl, State.stored_reset, rfl, rfl, rfl, rfl, rfl, rfl, rfl, rfl,
    rfl, rfl, State.entry_reset⟩

end Sys2Proof.Machine

/-! What every step keeps of the Report Store (chapter 9): the laws read the state through a view that most commands leave as it
is; an arrival, a grant, a discard, a delivery and a notice change it, and each keeps the laws. -/

namespace Sys2Proof.Machine

-- One theorem at a time, as in the tests: the memory limit of the check leaves room for few threads.
set_option Elab.async false

/-! ## The view of the laws -/

/-- A node entry with all blanked but its credit, notice state and park order, which the laws of the Report Store read. -/
def NodeEntry.reportSide (e : NodeEntry) : NodeEntry :=
  { e with state := .idle, issueNumber := 0, lastLatency := 0, maxLatency := 0, lastSequence := none }

/-- The store entry that a report item references. -/
def Item.report? : Item → Option StoreIndex
  | .report k => some k
  | .conclusion _ => none
  | .control _ => none

/-- The store entries that report items reference, in delivery order (R172). -/
def State.reportItems (s : State) : List StoreIndex := s.delivery.filterMap Item.report?

/-- The report sides of the Node Table. -/
def State.reportSides (s : State) : Vector NodeEntry 62 := s.nodes.map NodeEntry.reportSide

/-- What the laws of the Report Store read of a state. -/
def State.reportView (s : State) : Vector (Option StoredReport) 16 × List Nat × Vector NodeEntry 62 × List StoreIndex :=
  (s.store, s.owedOrder, s.reportSides, s.reportItems)

variable {s t : State}

theorem mem_reportItems {k : StoreIndex} : k ∈ s.reportItems ↔ Item.report k ∈ s.delivery := by
  have h (x : Item) : x.report? = some k ↔ x = .report k := by cases x <;> simp [Item.report?]
  simp [State.reportItems, List.mem_filterMap, h]

theorem count_reportItems (k : StoreIndex) : s.reportItems.count k = s.delivery.count (.report k) := by
  unfold State.reportItems
  induction s.delivery with
  | nil => rfl
  | cons x l ih => cases x <;> simp [List.filterMap_cons, Item.report?, List.count_cons, ih]

/-- A node's report side is that of its place in the Node Table. -/
theorem reportSide_node (s : State) (n : Nat) :
    (s.node n).reportSide =
      match nodeIndex n with
      | some i => s.reportSides[i]
      | none => NodeEntry.initial := by
  unfold State.node State.reportSides
  cases nodeIndex n with
  | none => rfl
  | some i => simp

theorem reportSide_node_of_sides (h : t.reportSides = s.reportSides) (n : Nat) :
    (t.node n).reportSide = (s.node n).reportSide := by
  rw [reportSide_node, reportSide_node, h]

/-- The laws of the Report Store depend on the view alone. -/
theorem State.ReportLaw.of_view (law : s.ReportLaw) (h : t.reportView = s.reportView) : t.ReportLaw := by
  obtain ⟨hstore, howed, hsides, hitems⟩ : t.store = s.store ∧ t.owedOrder = s.owedOrder ∧
      t.reportSides = s.reportSides ∧ t.reportItems = s.reportItems := by
    simpa [State.reportView] using h
  have hstored := State.stored_of_store hstore
  have hside := reportSide_node_of_sides hsides
  have hcredit (n : Nat) : (t.node n).credit = (s.node n).credit := congrArg (·.credit) (hside n)
  have hnotice (n : Nat) : (t.node n).notice = (s.node n).notice := congrArg (·.notice) (hside n)
  have hpark (n : Nat) : (t.node n).parkOrder = (s.node n).parkOrder := congrArg (·.parkOrder) (hside n)
  obtain ⟨parked, parkedOnce, released, releasedOnce, credit, creditOrPark, notice, owed, owedOnce⟩ := law
  simp only [← mem_reportItems, ← count_reportItems] at released releasedOnce
  constructor <;> simpa only [← mem_reportItems, ← count_reportItems, hstored, howed, hitems, hcredit, hnotice, hpark]

/-! ## What leaves the view as it is -/

theorem reportSides_updateNode {f : NodeEntry → NodeEntry} (hf : ∀ e, (f e).reportSide = e.reportSide) (s : State) (n : Nat) :
    (s.updateNode n f).reportSides = s.reportSides := by
  unfold State.reportSides State.updateNode changeNode
  cases nodeIndex n with
  | none => rfl
  | some i =>
    ext j hj
    by_cases hij : i.val = j
    · subst hij; simp [hf]
    · simp [hij]

theorem reportView_updateNode {f : NodeEntry → NodeEntry} (hf : ∀ e, (f e).reportSide = e.reportSide) (s : State) (n : Nat) :
    (s.updateNode n f).reportView = s.reportView := by
  rw [State.reportView, reportSides_updateNode hf]
  rfl

@[simp] theorem reportView_setNodeState (s : State) (n : Nat) (st : NodeState) :
    (s.setNodeState n st).reportView = s.reportView := by
  refine reportView_updateNode ?_ s n
  exact fun _ => rfl

@[simp] theorem reportView_noteLatency (s : State) (n l : Nat) : (s.noteLatency n l).reportView = s.reportView := by
  refine reportView_updateNode ?_ s n
  exact fun _ => rfl

/-- A state that differs in no field that the view reads has the same view. -/
theorem reportView_of_fields (hstore : t.store = s.store) (howed : t.owedOrder = s.owedOrder) (hnodes : t.nodes = s.nodes)
    (hitems : t.reportItems = s.reportItems) : t.reportView = s.reportView := by
  simp only [State.reportView, State.reportSides, hstore, howed, hnodes, hitems]

theorem reportItems_of_delivery (h : t.delivery = s.delivery) : t.reportItems = s.reportItems := by
  simp only [State.reportItems, h]

@[simp] theorem reportView_conclude (s : State) (i : Slot) (e : Exchange) (o : OutcomeCode) :
    (s.conclude i e o).reportView = s.reportView :=
  reportView_of_fields rfl rfl rfl (by simp [State.reportItems, Item.report?])

@[simp] theorem reportView_place (s : State) (f : Frame) : (s.place f).reportView = s.reportView :=
  reportView_of_fields rfl rfl rfl (by simp [State.reportItems, Item.report?])

@[simp] theorem reportView_tally (s : State) (c : Counter) : (s.tally c).reportView = s.reportView := rfl

@[simp] theorem reportView_raiseFlag (s : State) (f : Flag) : (s.raiseFlag f).reportView = s.reportView := rfl

@[simp] theorem reportView_becomeDeferred (s : State) (i : Slot) (e : Exchange) (due : Mono) :
    (s.becomeDeferred i e due).reportView = s.reportView :=
  (reportView_setNodeState _ _ _).trans rfl

@[simp] theorem reportView_becomeReady (s : State) (i : Slot) (e : Exchange) : (s.becomeReady i e).reportView = s.reportView :=
  rfl

@[simp] theorem reportView_takeSilence (s : State) (i : Slot) (e : Exchange) : (s.takeSilence i e).reportView = s.reportView := by
  rcases s.takeSilence_cases i e with ⟨-, h⟩ | ⟨-, h⟩ <;> simp [h]

@[simp] theorem reportView_endExchange (s : State) (i : Slot) (e : Exchange) (o : OutcomeCode) :
    (s.endExchange i e o).reportView = s.reportView := by
  rcases s.endExchange_cases i e o with ⟨-, h⟩ | ⟨-, h⟩ | ⟨-, h⟩ | ⟨-, h⟩ <;> simp [h]

@[simp] theorem reportView_cancelSlot (s : State) (i : Slot) : (s.cancelSlot i).reportView = s.reportView := by
  unfold State.cancelSlot
  split <;> simp

@[simp] theorem reportView_loseIssue (s : State) (i : Slot) : (s.loseIssue i).reportView = s.reportView := by
  rcases s.loseIssue_cases i with ⟨-, h⟩ | ⟨e, -, -, ⟨-, h⟩ | ⟨-, -, h⟩ | ⟨-, -, h⟩⟩ <;> simp [h]

@[simp] theorem reportSide_endQuiet (e : NodeEntry) : (endQuiet e).reportSide = e.reportSide := by
  unfold endQuiet
  split <;> rfl

@[simp] theorem reportView_loseField (s : State) (arrived : Bool) : (s.loseField arrived).reportView = s.reportView := by
  have hquiet (u : State) : State.reportView { u with nodes := u.nodes.map endQuiet } = u.reportView := by
    simp [State.reportView, State.reportSides, State.reportItems, Function.comp_def]
  unfold State.loseField
  simp only [reportView_raiseFlag, hquiet, foldl_field State.reportView _ reportView_loseIssue]
  exact reportView_of_fields (by simp) (by simp) (by simp) (reportItems_of_delivery (by simp))

@[simp] theorem reportView_takeAnswer (s : State) (i : Slot) (e : Exchange) (p : List Byte) :
    (s.takeAnswer i e p).reportView = s.reportView := by
  unfold State.takeAnswer
  split <;> simp

@[simp] theorem reportView_answerArrives (s : State) (f : Frame) : (s.answerArrives f).reportView = s.reportView := by
  unfold State.answerArrives
  split <;> simp [State.takeStale, State.takeLate]

@[simp] theorem reportView_deferArrives (s : State) (f : Frame) : (s.deferArrives f).reportView = s.reportView := by
  unfold State.deferArrives State.takeDefer
  split
  · split <;> simp
  · rfl
  · simp [State.takeLate]

@[simp] theorem reportView_offer (s : State) (f : Frame) : (s.offer f).reportView = s.reportView := by
  unfold State.offer
  split <;> rfl

@[simp] theorem reportView_oweReceipt (s : State) (r : Receipt) : (s.oweReceipt r).reportView = s.reportView := by
  rcases s.oweReceipt_cases r with ⟨-, h⟩ | ⟨-, h⟩ <;> rw [h] <;> rfl

@[simp] theorem reportView_endReceive (s : State) (line : Line) : (s.endReceive line).reportView = s.reportView := by
  cases line <;> rfl

@[simp] theorem reportView_completeIssue (s : State) (n window : Nat) : (s.completeIssue n window).reportView = s.reportView := by
  unfold State.completeIssue
  split
  · split <;> rfl
  · simp
  all_goals rfl

@[simp] theorem reportView_selectToNode (s : State) (i : Slot) (e : Exchange) : (s.selectToNode i e).reportView = s.reportView := by
  refine Eq.trans (b := (s.selectExchange i e).reportView) (reportView_updateNode ?_ (s.selectExchange i e) e.node) rfl
  exact fun _ => rfl

end Sys2Proof.Machine

/-! The commands that change the Report Store keep its laws, and so every step does. -/

namespace Sys2Proof.Machine

-- One theorem at a time, as in the tests: the memory limit of the check leaves room for few threads.
set_option Elab.async false

variable {s t : State}

/-! ## The laws node by node -/

/-- The laws of the Report Store at one node: its park order holds exactly its PARKED entries, once; it has no credit beside
them; its notice state and its place in the owed-notice order follow (R132, R137, R141). -/
structure State.NodeReports (s : State) (n : Nat) : Prop where
  parked : ∀ k, k ∈ (s.node n).parkOrder ↔ ∃ r, s.stored k = some r ∧ r.node = n ∧ r.released = false
  once : (s.node n).parkOrder.Nodup
  credit : (s.node n).credit ≤ Config.maxCredit
  creditOrPark : 0 < (s.node n).credit → (s.node n).parkOrder = []
  notice : (s.node n).notice = .none ↔ (s.node n).parkOrder = []
  owed : n ∈ s.owedOrder ↔ (s.node n).notice = .owed

/-- The laws of the Report Store, node by node, and those of the lists (R131, R141). -/
theorem reportLaw_iff :
    s.ReportLaw ↔ (∀ n, s.NodeReports n) ∧
      (∀ k, Item.report k ∈ s.delivery ↔ ∃ r, s.stored k = some r ∧ r.released = true) ∧
      (∀ k, s.delivery.count (.report k) ≤ 1) ∧ s.owedOrder.Nodup := by
  constructor
  · intro h
    exact ⟨fun n => ⟨h.parked n, h.parkedOnce n, h.credit n, h.creditOrPark n, h.notice n, h.owed n⟩, h.released,
      h.releasedOnce, h.owedOnce⟩
  · intro ⟨h, hreleased, hreleasedOnce, howedOnce⟩
    exact ⟨fun n => (h n).parked, fun n => (h n).once, hreleased, hreleasedOnce, fun n => (h n).credit,
      fun n => (h n).creditOrPark, fun n => (h n).notice, fun n => (h n).owed, howedOnce⟩

/-- A node whose entry, PARKED entries and place in the owed-notice order are as they were keeps its laws. -/
theorem State.NodeReports.kept {n : Nat} (law : s.NodeReports n) (hnode : t.node n = s.node n)
    (hparked : ∀ k, (∃ r, t.stored k = some r ∧ r.node = n ∧ r.released = false) ↔
      ∃ r, s.stored k = some r ∧ r.node = n ∧ r.released = false)
    (howed : n ∈ t.owedOrder ↔ n ∈ s.owedOrder) : t.NodeReports n := by
  obtain ⟨parked, once, credit, creditOrPark, notice, owed⟩ := law
  constructor <;> simpa only [hnode, hparked, howed]

/-! ## Arrivals -/

theorem State.stored_set {k : StoreIndex} {r : Option StoredReport} (h : t.store = s.store.set k r) (j : StoreIndex) :
    t.stored j = if k = j then r else s.stored j := by
  simp only [State.stored, h, store_get_set]

/-- A report taken on credit into a FREE entry keeps the laws (R134). -/
theorem State.ReportLaw.releaseOnArrival (law : s.ReportLaw) {k : StoreIndex} {f : Frame} (hfree : s.stored k = none) :
    (s.releaseOnArrival k f).ReportLaw := by
  let u : State := State.updateNode
    { s with store := s.store.set k (some (storedReport s f true)), delivery := s.delivery ++ [.report k] }
    f.node.toNat fun n => { n with lastSequence := some f.tag, credit := n.credit - 1 }
  have hview : (s.releaseOnArrival k f).reportView = u.reportView := by simp [State.releaseOnArrival, u]
  refine State.ReportLaw.of_view (s := u) ?_ hview
  have hstored : ∀ j, u.stored j = if k = j then some (storedReport s f true) else s.stored j := State.stored_set rfl
  have hnode (m : Nat) : ∃ c q, c ≤ (s.node m).credit ∧
      u.node m = { s.node m with lastSequence := q, credit := c } := by
    rw [State.node_updateNode]
    split
    · next h => obtain ⟨rfl, -⟩ := h; exact ⟨_, _, Nat.sub_le _ _, rfl⟩
    · exact ⟨_, _, le_rfl, rfl⟩
  obtain ⟨hnodes, hreleased, honce, howed⟩ := reportLaw_iff.mp law
  have hnew : Item.report k ∉ s.delivery := fun h => by simp [hreleased, hfree] at h
  refine reportLaw_iff.mpr ⟨fun m => ?_, fun j => ?_, fun j => ?_, howed⟩
  · obtain ⟨c, q, hc, hm⟩ := hnode m
    obtain ⟨parked, once, credit, creditOrPark, notice, owed⟩ := hnodes m
    constructor <;> simp only [hm]
    · intro j
      rw [parked, hstored]
      split
      · next h => subst h; simp [hfree, storedReport]
      · rfl
    · exact once
    · exact hc.trans credit
    · exact fun h => creditOrPark (h.trans_le hc)
    · exact notice
    · exact owed
  · rw [show u.delivery = s.delivery ++ [.report k] from rfl, hstored]
    split
    · next h => subst h; simp [storedReport]
    · next h => simp [hreleased, Ne.symm h]
  · rw [show u.delivery = s.delivery ++ [.report k] from rfl, List.count_append]
    by_cases h : k = j
    · subst h; simp [List.count_eq_zero.mpr hnew]
    · simpa [h] using honce j

@[simp] theorem mem_oweNotice {order : List Nat} {n m : Nat} : m ∈ oweNotice order n ↔ m = n ∨ m ∈ order := by
  unfold oweNotice
  split <;> grind

theorem nodup_oweNotice {order : List Nat} {n : Nat} (h : order.Nodup) : (oweNotice order n).Nodup := by
  unfold oweNotice
  split
  · exact h
  · exact List.nodup_append.mpr ⟨h, by simp, by grind⟩

/-- A report of a node without credit, taken into a FREE entry, keeps the laws (R134, R141). -/
theorem State.ReportLaw.parkOnArrival (law : s.ReportLaw) {k : StoreIndex} {f : Frame} (hfree : s.stored k = none)
    (hn : 1 ≤ f.node.toNat ∧ f.node.toNat ≤ 62) (hcredit : (s.node f.node.toNat).credit = 0) :
    (s.parkOnArrival k f).ReportLaw := by
  let n := f.node.toNat
  let u : State := State.updateNode
    { s with
      store := s.store.set k (some (storedReport s f false))
      owedOrder := if (s.node n).notice = .none then oweNotice s.owedOrder n else s.owedOrder }
    n fun e => { e with
      lastSequence := some f.tag, parkOrder := e.parkOrder ++ [k], notice := if e.notice = .none then .owed else e.notice }
  have hview : (s.parkOnArrival k f).reportView = u.reportView := by simp [State.parkOnArrival, u, n]
  refine State.ReportLaw.of_view (s := u) ?_ hview
  have hstored : ∀ j, u.stored j = if k = j then some (storedReport s f false) else s.stored j := State.stored_set rfl
  obtain ⟨hnodes, hreleased, honce, howed⟩ := reportLaw_iff.mp law
  have hnew (m : Nat) : k ∉ (s.node m).parkOrder := fun h => by simp [(hnodes m).parked, hfree] at h
  refine reportLaw_iff.mpr ⟨fun m => ?_, fun j => ?_, honce, ?_⟩
  · by_cases hm : n = m
    · subst hm
      have hnode : u.node n = { s.node n with
          lastSequence := some f.tag, parkOrder := (s.node n).parkOrder ++ [k],
          notice := if (s.node n).notice = .none then .owed else (s.node n).notice } :=
        (State.node_updateNode _ _ _ _).trans (if_pos ⟨rfl, hn⟩)
      obtain ⟨parked, once, credit, -, notice, owed⟩ := hnodes n
      constructor <;> simp only [hnode]
      · intro j
        rw [List.mem_append, parked, hstored]
        split
        · next h => subst h; simp [storedReport, n]
        · next h => simp [Ne.symm h]
      · exact List.nodup_append.mpr ⟨once, by simp, by simpa using fun j hj (h : j = k) => hnew n (h ▸ hj)⟩
      · exact credit
      · simp [n, hcredit]
      · split <;> simp_all
      · change n ∈ (if (s.node n).notice = .none then oweNotice s.owedOrder n else s.owedOrder) ↔ _
        split <;> simp [owed]
    · refine (hnodes m).kept ?_ (fun j => ?_) ?_
      · exact (State.node_updateNode _ _ _ _).trans (if_neg fun h => hm h.1)
      · rw [hstored]
        split
        · next h => subst h; simpa [hfree, storedReport] using hm
        · rfl
      · change m ∈ (if (s.node n).notice = .none then oweNotice s.owedOrder n else s.owedOrder) ↔ _
        split <;> simp [Ne.symm hm]
  · rw [show u.delivery = s.delivery from rfl, hstored, hreleased]
    split
    · next h => subst h; simp [hfree, storedReport]
    · rfl
  · change (if (s.node n).notice = .none then oweNotice s.owedOrder n else s.owedOrder).Nodup
    split
    · exact nodup_oweNotice howed
    · exact howed

/-- A REPORT that the line accepts keeps the laws, whatever becomes of it (R133 to R135). -/
theorem State.ReportLaw.reportArrives (law : s.ReportLaw) {f : Frame} (hn : 1 ≤ f.node.toNat ∧ f.node.toNat ≤ 62) :
    (s.reportArrives f).ReportLaw := by
  unfold State.reportArrives
  split
  · exact law.of_view (by simp)
  · split
    · next k hk =>
      have hfree := s.lowestFreeEntry_spec k hk
      split
      · exact law.releaseOnArrival hfree
      · exact law.parkOnArrival hfree hn (by omega)
    · exact law.of_view (by simp)

/-- What arrives at a port keeps the laws. -/
theorem State.ReportLaw.arrive (law : s.ReportLaw) (line : Line) (bytes : List Byte) : (s.arrive line bytes).ReportLaw := by
  unfold State.arrive
  split
  · next f hgood =>
    have law' : ((s.endReceive line).tally (goodCounter line)).ReportLaw := law.of_view (by simp)
    obtain ⟨-, haccepted⟩ := eq_frameBytes_of_good hgood
    unfold State.handOn
    cases hk : f.kind with
    | report =>
      rcases haccepted with ⟨-, h, -⟩ | ⟨-, -, hlow, hhigh, -⟩
      · simp [hk] at h
      · exact law'.reportArrives ⟨hlow, hhigh⟩
    | _ => exact law'.of_view (by simp)
  · exact law.of_view (by simp)
  · exact law.of_view (by simp)

/-! ## Grants and notices -/

theorem releaseEntries_get (store : Vector (Option StoredReport) 16) (ks : List StoreIndex) (j : StoreIndex) :
    (releaseEntries store ks)[j] = if j ∈ ks then store[j].map fun r => { r with released := true } else store[j] := by
  unfold releaseEntries
  induction ks generalizing store with
  | nil => simp
  | cons k ks ih =>
    rw [List.foldl_cons, ih, store_get_set]
    by_cases hkj : k = j
    · subst hkj
      simp [Function.comp_def]
    · simp [hkj, Ne.symm hkj]

theorem freeEntries_get (store : Vector (Option StoredReport) 16) (ks : List StoreIndex) (j : StoreIndex) :
    (freeEntries store ks)[j] = if j ∈ ks then none else store[j] := by
  unfold freeEntries
  induction ks generalizing store with
  | nil => simp
  | cons k ks ih =>
    rw [List.foldl_cons, ih, store_get_set]
    by_cases hkj : k = j
    · subst hkj
      simp
    · simp [hkj, Ne.symm hkj]

/-- The entries that a grant releases, and those it leaves in the park order (R138). -/
theorem State.stored_grant (s : State) (n k : Nat) (j : StoreIndex) :
    (s.grant n k).stored j =
      if j ∈ (s.node n).parkOrder.take (min Config.maxCredit ((s.node n).credit + k)) then
        (s.stored j).map fun r => { r with released := true }
      else s.stored j :=
  releaseEntries_get s.store _ j

theorem State.node_grant (s : State) {n : Nat} (k : Nat) (hn : 1 ≤ n ∧ n ≤ 62) :
    (s.grant n k).node n =
      { s.node n with
        credit := min Config.maxCredit ((s.node n).credit + k) -
          ((s.node n).parkOrder.take (min Config.maxCredit ((s.node n).credit + k))).length
        parkOrder := (s.node n).parkOrder.drop (min Config.maxCredit ((s.node n).credit + k))
        notice := if ((s.node n).parkOrder.drop (min Config.maxCredit ((s.node n).credit + k))).isEmpty then .none
          else .owed } :=
  (State.node_updateNode _ _ _ _).trans (if_pos ⟨rfl, hn⟩)

theorem State.node_grant_of_ne (s : State) {n m : Nat} (k : Nat) (h : n ≠ m) : (s.grant n k).node m = s.node m :=
  (State.node_updateNode _ _ _ _).trans (if_neg fun hm => h hm.1)

/-- A grant keeps the laws (R138). -/
theorem State.ReportLaw.grant (law : s.ReportLaw) {n : Nat} (k : Nat) (hn : 1 ≤ n ∧ n ≤ 62) : (s.grant n k).ReportLaw := by
  obtain ⟨hnodes, hreleased, honce, howed⟩ := reportLaw_iff.mp law
  have hnode := s.node_grant k hn
  have hstored := s.stored_grant n k
  have hdelivery : (s.grant n k).delivery = s.delivery ++ ((s.node n).parkOrder.take
      (min Config.maxCredit ((s.node n).credit + k))).map Item.report := rfl
  have howedOrder : (s.grant n k).owedOrder = if ((s.node n).parkOrder.drop
      (min Config.maxCredit ((s.node n).credit + k))).isEmpty then s.owedOrder.filter (· != n)
      else oweNotice s.owedOrder n := rfl
  generalize hc : min Config.maxCredit ((s.node n).credit + k) = credit at hnode hstored hdelivery howedOrder
  have hmax : credit ≤ Config.maxCredit := hc ▸ min_le_left _ _
  have hparked {j : StoreIndex} (hj : j ∈ (s.node n).parkOrder.take credit) :=
    (hnodes n).parked j |>.mp (List.mem_of_mem_take hj)
  have hsplit := List.take_append_drop credit (s.node n).parkOrder
  have honceAll := (hnodes n).once
  rw [← hsplit, List.nodup_append] at honceAll
  obtain ⟨htake, hdrop, hdisjoint⟩ := honceAll
  refine reportLaw_iff.mpr ⟨fun m => ?_, fun j => ?_, fun j => ?_, ?_⟩
  · by_cases hm : n = m
    · subst hm
      constructor <;> simp only [hnode]
      · intro j
        have hmem : j ∈ (s.node n).parkOrder ↔ _ := (hnodes n).parked j
        rw [← hsplit, List.mem_append] at hmem
        rw [hstored]
        split
        · next h => simpa using fun hd => hdisjoint j h j hd rfl
        · next h => simpa [h] using hmem
      · exact hdrop
      · omega
      · rw [List.length_take, List.drop_eq_nil_iff]
        omega
      · split <;> simp_all
      · rw [howedOrder]
        split <;> simp
    · refine (hnodes m).kept (s.node_grant_of_ne k hm) (fun j => ?_) ?_
      · rw [hstored]
        split
        · next h =>
          obtain ⟨r, hr, hrn, hrr⟩ := hparked h
          simpa [hr] using fun h => absurd (hrn.symm.trans h) hm
        · rfl
      · rw [howedOrder]
        split <;> simp [Ne.symm hm]
  · rw [hdelivery, List.mem_append, hstored, hreleased, List.mem_map_of_injective fun _ _ => Item.report.inj]
    split
    · next h =>
      obtain ⟨r, hr, -, -⟩ := hparked h
      simp [hr, h]
    · next h => simp [h]
  · rw [hdelivery, List.count_append, List.count_map_of_injective _ _ fun _ _ => Item.report.inj]
    by_cases h : j ∈ (s.node n).parkOrder.take credit
    · obtain ⟨r, hr, -, hrr⟩ := hparked h
      have hnew : Item.report j ∉ s.delivery := fun hd => by simp [hreleased, hr, hrr] at hd
      rw [List.count_eq_zero.mpr hnew, htake.count, if_pos h]
    · rw [List.count_eq_zero.mpr h]
      exact honce j
  · rw [howedOrder]
    split
    · exact howed.filter _
    · exact nodup_oweNotice howed

/-- A discard keeps the laws (R140). -/
theorem State.ReportLaw.discard (law : s.ReportLaw) {n : Nat} (hn : 1 ≤ n ∧ n ≤ 62) : (s.discard n).ReportLaw := by
  obtain ⟨hnodes, hreleased, honce, howed⟩ := reportLaw_iff.mp law
  have hnode : (s.discard n).node n = { s.node n with parkOrder := [], notice := .none } :=
    (State.node_updateNode _ _ _ _).trans (if_pos ⟨rfl, hn⟩)
  have hstored (j : StoreIndex) : (s.discard n).stored j = if j ∈ (s.node n).parkOrder then none else s.stored j :=
    freeEntries_get s.store _ j
  have howedOrder : (s.discard n).owedOrder = s.owedOrder.filter (· != n) := rfl
  refine reportLaw_iff.mpr ⟨fun m => ?_, fun j => ?_, honce, howedOrder ▸ howed.filter _⟩
  · by_cases hm : n = m
    · subst hm
      constructor <;> simp only [hnode, howedOrder]
      · intro j
        rw [hstored]
        split
        · simp
        · next h => simpa [h] using (hnodes n).parked j
      · exact List.nodup_nil
      · exact (hnodes n).credit
      · simp
      · simp
    · refine (hnodes m).kept ((State.node_updateNode _ _ _ _).trans (if_neg fun h => hm h.1)) (fun j => ?_) ?_
      · rw [hstored]
        split
        · next h =>
          obtain ⟨r, hr, hrn, -⟩ := (hnodes n).parked j |>.mp h
          simpa [hr] using fun h => absurd (hrn.symm.trans h) hm
        · rfl
      · simp [howedOrder, Ne.symm hm]
  · rw [State.discard_delivery, hstored, hreleased]
    split
    · next h =>
      obtain ⟨r, hr, -, hrr⟩ := (hnodes n).parked j |>.mp h
      simp [hr, hrr]
    · rfl

/-- The withdrawal of a node's credit keeps the laws (R139). -/
theorem State.ReportLaw.withdraw (law : s.ReportLaw) (n : Nat) :
    (s.updateNode n fun e => { e with credit := 0 }).ReportLaw := by
  obtain ⟨hnodes, hlists⟩ := reportLaw_iff.mp law
  have hnode (m : Nat) : ∃ c, c ≤ (s.node m).credit ∧
      (s.updateNode n fun e => { e with credit := 0 }).node m = { s.node m with credit := c } := by
    rw [State.node_updateNode]
    split
    · next h => obtain ⟨rfl, -⟩ := h; exact ⟨0, Nat.zero_le _, rfl⟩
    · exact ⟨_, le_rfl, rfl⟩
  refine reportLaw_iff.mpr ⟨fun m => ?_, hlists⟩
  obtain ⟨c, hc, hm⟩ := hnode m
  obtain ⟨parked, once, credit, creditOrPark, notice, owed⟩ := hnodes m
  constructor <;> simp only [hm]
  · exact parked
  · exact once
  · exact hc.trans credit
  · exact fun h => creditOrPark (h.trans_le hc)
  · exact notice
  · exact owed

/-- The completion of a REPORT DELIVERY frees its entry and keeps the laws (R143, R176). -/
theorem State.ReportLaw.delivered (law : s.ReportLaw) {k : StoreIndex} {rest : List Item}
    (hfirst : s.delivery = .report k :: rest) : State.ReportLaw { s.completeHead with store := s.store.set k none } := by
  obtain ⟨hnodes, hreleased, honce, howed⟩ := reportLaw_iff.mp law
  have hstored : ∀ j, State.stored { s.completeHead with store := s.store.set k none } j = if k = j then none else s.stored j :=
    State.stored_set rfl
  have hdelivery : s.completeHead.delivery = rest := by simp [hfirst]
  have hgone : Item.report k ∉ rest := by
    have := honce k
    rw [hfirst, List.count_cons_self] at this
    exact List.count_eq_zero.mp (by omega)
  obtain ⟨r, hr, hrr⟩ := (hreleased k).mp (hfirst ▸ List.mem_cons_self)
  refine reportLaw_iff.mpr ⟨fun m => (hnodes m).kept rfl (fun j => ?_) Iff.rfl, fun j => ?_, fun j => ?_, howed⟩
  · rw [hstored]
    split
    · next h => subst h; simp [hr, hrr]
    · rfl
  · rw [show State.delivery _ = rest from hdelivery, hstored]
    split
    · next h => subst h; simp [hgone]
    · next h => rw [← hreleased, hfirst]; simp [Ne.symm h]
  · rw [show State.delivery _ = rest from hdelivery]
    exact (List.count_le_count_cons (a := .report j) (b := .report k) (l := rest)).trans (hfirst ▸ honce j)

/-- The placing of a GRANT WANTED notice keeps the laws (R141, R142). -/
theorem State.ReportLaw.grantWanted (law : s.ReportLaw) {n : Nat} (hfirst : s.owedOrder.head? = some n) (f : Frame) :
    ((State.updateNode { s with owedOrder := s.owedOrder.tail } n fun e => { e with notice := .sent }).place f).ReportLaw := by
  obtain ⟨rest, hrest⟩ := List.head?_eq_some_iff.mp hfirst
  obtain ⟨hnodes, hreleased, honce, howed⟩ := reportLaw_iff.mp law
  rw [hrest, List.nodup_cons] at howed
  have hn : (s.node n).notice = .owed := (hnodes n).owed.mp (by simp [hrest])
  have hrange : 1 ≤ n ∧ n ≤ 62 := by
    by_contra h
    rw [s.node_outside h] at hn
    exact nomatch hn
  let u : State := State.updateNode { s with owedOrder := s.owedOrder.tail } n fun e => { e with notice := .sent }
  refine State.ReportLaw.of_view (s := u) ?_ (by simp [u])
  have howedOrder : u.owedOrder = rest := by simp [u, hrest]
  refine reportLaw_iff.mpr ⟨fun m => ?_, hreleased, honce, by rw [howedOrder]; exact howed.2⟩
  by_cases hm : n = m
  · subst hm
    have hnode : u.node n = { s.node n with notice := .sent } := (State.node_updateNode _ _ _ _).trans (if_pos ⟨rfl, hrange⟩)
    obtain ⟨parked, once, credit, creditOrPark, notice, owed⟩ := hnodes n
    constructor <;> simp only [hnode, howedOrder]
    · exact parked
    · exact once
    · exact credit
    · exact creditOrPark
    · simpa [hn] using notice
    · simpa using howed.1
  · refine (hnodes m).kept ((State.node_updateNode _ _ _ _).trans (if_neg fun h => hm h.1)) (fun _ => Iff.rfl) ?_
    rw [howedOrder, hrest]
    simp [Ne.symm hm]

/-! ## RESET and RESTART -/

/-- A state with no report, no notice and no credit meets the laws. -/
theorem reportLaw_of_cleared (hstored : ∀ k, s.stored k = none)
    (hnode : ∀ n, (s.node n).credit = 0 ∧ (s.node n).notice = .none ∧ (s.node n).parkOrder = [])
    (hdelivery : s.delivery = []) (howed : s.owedOrder = []) : s.ReportLaw := by
  refine reportLaw_iff.mpr ⟨fun n => ?_, by simp [hdelivery, hstored], by simp [hdelivery], by simp [howed]⟩
  obtain ⟨hcredit, hnotice, hpark⟩ := hnode n
  constructor <;> simp [hcredit, hnotice, hpark, hstored, howed]

/-- An entry of the Node Table with every entry changed alike. -/
theorem State.node_map {g : NodeEntry → NodeEntry} (h : t.nodes = s.nodes.map g) (n : Nat) :
    t.node n = if 1 ≤ n ∧ n ≤ 62 then g (s.node n) else NodeEntry.initial := by
  unfold State.node
  cases hi : nodeIndex n with
  | none => rw [if_neg (nodeIndex_eq_none.mp hi)]
  | some i =>
    have hn : 1 ≤ n ∧ n ≤ 62 := by
      have := nodeIndex_eq_some.mp hi
      omega
    simp [h, hn]

theorem reportLaw_reset : State.reset.ReportLaw :=
  reportLaw_of_cleared State.stored_reset (fun n => by simp [NodeEntry.initial]) rfl rfl

theorem reportLaw_restarted (s : State) : s.restarted.ReportLaw := by
  refine reportLaw_of_cleared (fun k => by simp [State.stored, State.restarted]) (fun n => ?_) rfl rfl
  rw [State.node_map (s := s) (g := restartedNode) rfl]
  split <;> simp [restartedNode, NodeEntry.initial]

/-! ## Every effect -/

/-- What a directive does keeps the laws of the Report Store. -/
theorem State.ReportLaw.directive_effect (law : s.ReportLaw) {c : Instr} (h : DirectiveEffect s c t) : t.ReportLaw := by
  cases h with
  | postGrant n k low high => exact law.grant k ⟨low, high⟩
  | withdrawGrant n => exact law.withdraw n
  | discardParked n low high => exact law.discard ⟨low, high⟩
  | restart => exact reportLaw_restarted s
  | cancelExchange i e => exact law.of_view (by simp)
  | cancelNode n => exact law.of_view (foldl_field State.reportView _ reportView_cancelSlot _ s)
  | _ => exact law.of_view rfl

/-- What a command does keeps the laws of the Report Store. -/
theorem State.ReportLaw.effect (law : s.ReportLaw) {c : Instr} (h : Effect s c t) : t.ReportLaw := by
  have fields {u : State} (hstore : u.store = s.store) (howed : u.owedOrder = s.owedOrder) (hnodes : u.nodes = s.nodes)
      (hdelivery : u.delivery = s.delivery) : u.ReportLaw :=
    law.of_view (reportView_of_fields hstore howed hnodes (reportItems_of_delivery hdelivery))
  cases h with
  | stays => exact law
  | reset => exact reportLaw_reset.of_view rfl
  | arrival _ line bytes => exact law.arrive line bytes
  | startPatternSeen line => exact fields (by simp) (by simp) (by simp) (by simp)
  | headLineDown => exact fields (by simp) (by simp) (by simp) (by simp)
  | fieldLineDown => exact law.of_view (by simp)
  | issueSelection i e => exact law.of_view (by simp)
  | issueTransmitCompletion i n number window =>
    exact law.of_view (Eq.trans (b := (s.completeIssue n window).reportView) rfl (by simp))
  | broadcastTransmitCompletion i number window e =>
    exact law.of_view (Eq.trans (b := (s.conclude i (completedRecord s e) .sent).reportView) rfl (by simp))
  | outcomeTransmitCompletion i rest first =>
    exact law.of_view (reportView_of_fields (by simp) (by simp) (by simp) (by simp [State.reportItems, first, List.filterMap_cons, Item.report?]))
  | reportDeliveryCompletion k rest first => exact law.delivered first
  | controlTransmitCompletion f rest first =>
    exact law.of_view (reportView_of_fields (by simp) (by simp) (by simp) (by simp [State.reportItems, first, List.filterMap_cons, Item.report?]))
  | answerWindowExpiry i e => exact law.of_view (by simp)
  | lifetimeEnd i e => exact law.of_view (by simp)
  | quietUntilReached n => exact law.of_view (by simp)
  | cycleStart => exact fields (by simp) (by simp) (by simp) (by simp)
  | syncEdge => exact fields (by simp) (by simp) (by simp) (by simp)
  | scheduleFiring k => exact fields (by simp) (by simp) (by simp) (by simp)
  | requestRefused f rest code => exact law.of_view (by simp; rfl)
  | flagsRaisedNoticePlaced => exact law.of_view (by simp; rfl)
  | grantWantedNoticePlaced n ready =>
    refine law.grantWanted ?_ _
    unfold State.grantNoticeNode at ready
    split at ready
    · exact ready
    · exact nomatch ready
  | tick a b c d => exact fields (by simp) (by simp) (by simp) (by simp)
  | directive c u d rest status result intake place body =>
    have taken : s.taken.ReportLaw := law.of_view rfl
    exact (taken.directive_effect body).of_view (by simp)
  | _ => exact law.of_view rfl

/-- Settles O8: of the commands, only those that change the Report Store, credits or notices change what the laws read, and each
of these keeps them. -/
theorem stepKeepsReportLaw : Obligations.StepKeepsReportLaw :=
  fun _ _ law => step_keeps (fun _ _ law => law.of_view rfl) (fun law => law.effect) law

end Sys2Proof.Machine

/-! What every step keeps of the clock (sections 2.4 and 10.2) and of the two ports (sections 1.3 to 1.5). -/

namespace Sys2Proof.Machine

-- One theorem at a time, as in the tests: the memory limit of the check leaves room for few threads.
set_option Elab.async false

variable {s t : State}

/-! ## The clock -/

theorem State.ClockLaw.of_fields (law : s.ClockLaw) (hparams : t.params = s.params)
    (hstaged : t.stagedLength = s.stagedLength) (hphase : t.phase = s.phase) : t.ClockLaw := by
  obtain ⟨parameters, staged, phase⟩ := law
  constructor <;> simpa only [hparams, hstaged, hphase]

/-- The clock at phase 0 meets the laws in any length in range. -/
theorem cycleLength_pos {p : Parameters} (h : parametersValid p = true) : 0 < p.cycleLength := by
  simp [parametersValid, cycleLengthValid] at h
  omega

/-- Another valid cycle length above the SYNC Tolerance keeps the parameters valid (R28, R29). -/
theorem parametersValid_of_cycleLength {p : Parameters} {l : Nat} (h : parametersValid p = true)
    (hlength : cycleLengthValid l = true) (htolerance : p.syncTolerance < l) :
    parametersValid { p with cycleLength := l } = true := by
  simp only [parametersValid, Bool.and_eq_true, decide_eq_true_eq] at h ⊢
  obtain ⟨⟨⟨⟨⟨hreserve, hshare⟩, -⟩, hfilter⟩, hbound, -⟩, hmiss⟩ := h
  exact ⟨⟨⟨⟨⟨hreserve, hshare⟩, hlength⟩, hfilter⟩, hbound, htolerance⟩, hmiss⟩

theorem parametersValid_cycleLength {p : Parameters} (h : parametersValid p = true) :
    cycleLengthValid p.cycleLength = true ∧ p.syncTolerance < p.cycleLength := by
  simp only [parametersValid, Bool.and_eq_true, decide_eq_true_eq] at h
  exact ⟨h.1.1.1.2, h.1.2.2⟩

theorem parametersValid_of_image {arguments : List Byte} {p : Parameters} (h : parametersOfImage arguments = some p) :
    parametersValid p = true := by
  unfold parametersOfImage at h
  split at h
  · cases h
  · split at h
    · cases h
    · split at h
      · obtain ⟨hvalid, hp⟩ := Option.ite_none_right_eq_some.mp h
        exact Option.some.inj hp ▸ hvalid
      · cases h

/-- A cycle start puts a staged length in force, and the phase at 0 (R150). -/
theorem State.ClockLaw.newCycle (law : s.ClockLaw) (kind : StartKind) : (s.newCycle kind).ClockLaw := by
  have hvalid : parametersValid (s.newCycle kind).params = true := by
    change parametersValid { s.params with cycleLength := s.stagedLength.getD s.params.cycleLength } = true
    cases hstaged : s.stagedLength with
    | none => exact law.parameters
    | some l =>
      obtain ⟨hlength, htolerance⟩ := law.staged l hstaged
      exact parametersValid_of_cycleLength law.parameters hlength htolerance
  exact ⟨hvalid, fun l h => (nomatch h), cycleLength_pos hvalid⟩

theorem State.ClockLaw.startCycle (law : s.ClockLaw) (kind : StartKind) : (s.startCycle kind).ClockLaw :=
  (law.newCycle kind).of_fields (by simp [State.startCycle]) (by simp [State.startCycle]) (by simp [State.startCycle])

/-- A phase that does not end the cycle may rise by 1 (R149). -/
theorem State.ClockLaw.phase_succ (law : s.ClockLaw) (hinside : s.atCycleEnd = false) (held : Bool) :
    State.ClockLaw { s with phase := s.phase + 1, advanceHeld := held } := by
  have hroom : s.phase + 1 < s.params.cycleLength := by simpa [State.atCycleEnd] using hinside
  exact ⟨law.parameters, law.staged, hroom⟩

theorem State.ClockLaw.advance (law : s.ClockLaw) (edgeFirst : Bool) : (s.advance edgeFirst).ClockLaw := by
  unfold State.advance
  split
  · exact law.of_fields rfl rfl rfl
  · next h =>
    simp only [Bool.or_eq_true, not_or, Bool.not_eq_true] at h
    exact law.phase_succ h.1 s.advanceHeld

theorem State.ClockLaw.takeEdge (law : s.ClockLaw) : s.takeEdge.ClockLaw := by
  have law' : s.takeLevel.captureEdge.ClockLaw := law.of_fields rfl rfl rfl
  have ended : s.takeLevel.captureEdge.endMisses.ClockLaw := law.of_fields rfl rfl rfl
  unfold State.takeEdge State.edgeEffect
  split
  · exact law'
  · exact ended.startCycle .sync
  · exact ended.startCycle .sync
  · exact ⟨law.parameters, law.staged, cycleLength_pos law.parameters⟩

/-- The application of a valid image whose tolerance fits the length in force (R29, R30). -/
theorem State.ClockLaw.applyParameters (law : s.ClockLaw) {p : Parameters} (hvalid : parametersValid p = true)
    (htolerance : p.syncTolerance < s.params.cycleLength) : (s.applyParameters p).ClockLaw := by
  refine ⟨parametersValid_of_cycleLength hvalid (parametersValid_cycleLength law.parameters).1 htolerance, ?_, law.phase⟩
  intro l hl
  have hstaged : stagedAfter s.params.cycleLength p.cycleLength = some l := hl
  unfold stagedAfter at hstaged
  split at hstaged
  · cases hstaged
  · exact Option.some.inj hstaged ▸ parametersValid_cycleLength hvalid

theorem clockLaw_reset : State.reset.ClockLaw :=
  ⟨by decide, fun l h => (nomatch h), by decide⟩

theorem State.ClockLaw.directive_effect (law : s.ClockLaw) {c : Instr} (h : DirectiveEffect s c t) : t.ClockLaw := by
  cases h with
  | setParameters arguments p image tolerance => exact law.applyParameters (parametersValid_of_image image) tolerance
  | cancelExchange i e => exact law.of_fields (by simp) (by simp) (by simp)
  | cancelNode n =>
    exact law.of_fields (foldl_field State.params _ (by simp) _ s) (foldl_field State.stagedLength _ (by simp) _ s)
      (foldl_field State.phase _ (by simp) _ s)
  | _ => exact law.of_fields rfl rfl rfl

theorem State.ClockLaw.effect (law : s.ClockLaw) {c : Instr} (h : Effect s c t) : t.ClockLaw := by
  cases h with
  | reset => exact clockLaw_reset.of_fields rfl rfl rfl
  | cycleStart =>
    have held : State.ClockLaw { s with advanceHeld := false } := law.of_fields rfl rfl rfl
    exact held.startCycle _
  | advance held inside => exact law.phase_succ inside false
  | syncEdge => exact law.takeEdge
  | tick a b c d =>
    refine State.ClockLaw.advance (law.of_fields ?_ ?_ ?_) d <;> simp
  | directive c u d rest status result intake place body =>
    have taken : s.taken.ClockLaw := law.of_fields rfl rfl rfl
    exact (taken.directive_effect body).of_fields rfl rfl rfl
  | _ => exact law.of_fields (by simp) (by simp) (by simp)

/-! ## The ports -/

/-- The laws of the head port: while its line is DOWN it neither receives nor sends, and it has no frame still to hand on. -/
structure Port.HeadLaw (p : Port) : Prop where
  receive : p.up = false → p.receive ≠ .receiving
  send : p.up = false → p.tx = none
  arrived : p.receive ≠ .arrived

/-- The laws of the field port: while its line is DOWN it neither receives nor sends, and only then it may have a frame still to
hand on (log 25). -/
structure Port.FieldLaw (p : Port) : Prop where
  receive : p.up = false → p.receive ≠ .receiving
  send : p.up = false → p.tx = none
  arrived : p.up = true → p.receive ≠ .arrived

theorem lineLaw_iff : s.LineLaw ↔ s.headPort.HeadLaw ∧ s.fieldPort.FieldLaw := by
  constructor
  · intro ⟨receive, send, head, field⟩
    exact ⟨⟨receive .head, send .head, head⟩, ⟨receive .field, send .field, field⟩⟩
  · intro ⟨hh, hf⟩
    refine ⟨fun line => ?_, fun line => ?_, hh.arrived, hf.arrived⟩ <;> cases line
    · exact hh.receive
    · exact hf.receive
    · exact hh.send
    · exact hf.send

section
variable {p : Port}

theorem Port.HeadLaw.start (law : p.HeadLaw) (hup : p.up = true) (now : Mono) (f : Frame) : (p.start now f).HeadLaw :=
  ⟨law.receive, fun h => absurd (hup.symm.trans h) (by decide), law.arrived⟩

theorem Port.FieldLaw.start (law : p.FieldLaw) (hup : p.up = true) (now : Mono) (f : Frame) : (p.start now f).FieldLaw :=
  ⟨law.receive, fun h => absurd (hup.symm.trans h) (by decide), law.arrived⟩

theorem Port.HeadLaw.idle (law : p.HeadLaw) : p.idle.HeadLaw := ⟨law.receive, fun _ => rfl, law.arrived⟩

theorem Port.FieldLaw.idle (law : p.FieldLaw) : p.idle.FieldLaw := ⟨law.receive, fun _ => rfl, law.arrived⟩

theorem Port.HeadLaw.sample (law : p.HeadLaw) (valid : Bool) : (p.sample valid).HeadLaw :=
  ⟨law.receive, law.send, law.arrived⟩

theorem Port.FieldLaw.sample (law : p.FieldLaw) (valid : Bool) : (p.sample valid).FieldLaw :=
  ⟨law.receive, law.send, law.arrived⟩

theorem Port.HeadLaw.endReceive (law : p.HeadLaw) : Port.HeadLaw { p with receive := .idle } :=
  ⟨fun _ h => (nomatch h), law.send, fun h => nomatch h⟩

theorem Port.FieldLaw.endReceive (law : p.FieldLaw) : Port.FieldLaw { p with receive := .idle } :=
  ⟨fun _ h => (nomatch h), law.send, fun _ h => nomatch h⟩

end

/-- A port that can start a transmission has its line UP (R8). -/
theorem Port.up_of_canStart {p : Port} (h : p.canStart = true) : p.up = true := by
  simp only [Port.canStart, Bool.and_eq_true] at h
  exact h.1

theorem fieldPort_up_of_fieldStart {c : FieldChoice} (h : s.fieldStart = some c) : s.fieldPort.up = true := by
  have hchoice := fieldStart_choice h
  unfold State.fieldChoice at hchoice
  split at hchoice
  · exact Port.up_of_canStart ‹_›
  · cases hchoice

theorem headPort_up_of_headStart {f : Frame} (h : s.headStart = some f) : s.headPort.up = true := by
  unfold State.headStart at h
  split at h
  · exact Port.up_of_canStart ‹_›
  · cases h

theorem State.LineLaw.of_fields (law : s.LineLaw) (hhead : t.headPort = s.headPort) (hfield : t.fieldPort = s.fieldPort) :
    t.LineLaw := by
  rw [lineLaw_iff] at law ⊢
  rwa [hhead, hfield]

theorem State.LineLaw.endReceive (law : s.LineLaw) (line : Line) : (s.endReceive line).LineLaw := by
  obtain ⟨hhead, hfield⟩ := lineLaw_iff.mp law
  refine lineLaw_iff.mpr ?_
  cases line with
  | head => exact ⟨hhead.endReceive, hfield⟩
  | field => exact ⟨hhead, hfield.endReceive⟩

theorem State.LineLaw.arrive (law : s.LineLaw) (line : Line) (bytes : List Byte) : (s.arrive line bytes).LineLaw := by
  unfold State.arrive
  split <;> exact (law.endReceive line).of_fields (by simp) (by simp)

theorem lineLaw_reset : State.reset.LineLaw :=
  lineLaw_iff.mpr ⟨⟨fun _ => by decide, fun _ => rfl, by decide⟩, ⟨fun _ => by decide, fun _ => rfl, fun _ => by decide⟩⟩

theorem State.LineLaw.directive_effect (law : s.LineLaw) {c : Instr} (h : DirectiveEffect s c t) : t.LineLaw := by
  cases h with
  | restart => exact lineLaw_iff.mpr ⟨(lineLaw_iff.mp law).1.idle, (lineLaw_iff.mp law).2.idle⟩
  | cancelExchange i e => exact law.of_fields (by simp) (by simp)
  | cancelNode n =>
    exact law.of_fields (foldl_field State.headPort _ (by simp) _ s) (foldl_field State.fieldPort _ (by simp) _ s)
  | _ => exact law.of_fields rfl rfl

/-- The field port at its line's change to DOWN meets its laws (R7, log 25). -/
theorem endFieldReceive_fieldLaw (s : State) (arrived : Bool) : (s.endFieldReceive arrived).fieldPort.FieldLaw := by
  unfold State.endFieldReceive
  split
  · exact ⟨fun _ h => (nomatch h), fun _ => rfl, fun h => nomatch h⟩
  · exact ⟨fun _ h => (nomatch h), fun _ => rfl, fun h => nomatch h⟩

theorem fieldPort_loseField (s : State) (arrived : Bool) :
    (s.loseField arrived).fieldPort = (s.endFieldReceive arrived).fieldPort := by
  unfold State.loseField
  exact foldl_field State.fieldPort _ (by simp) _ _

theorem State.LineLaw.effect (law : s.LineLaw) {c : Instr} (h : Effect s c t) : t.LineLaw := by
  obtain ⟨hhead, hfield⟩ := lineLaw_iff.mp law
  cases h with
  | reset => exact lineLaw_reset.of_fields rfl rfl
  | arrival _ line bytes => exact law.arrive line bytes
  | startPatternSeen line up idle =>
    refine lineLaw_iff.mpr ?_
    cases line with
    | head => exact ⟨⟨fun h => absurd (up.symm.trans h) (by decide), hhead.send, fun h => nomatch h⟩, hfield⟩
    | field => exact ⟨hhead, ⟨fun h => absurd (up.symm.trans h) (by decide), hfield.send, fun _ h => nomatch h⟩⟩
  | headLineUp => exact lineLaw_iff.mpr ⟨⟨fun h => (nomatch h), fun h => (nomatch h), fun h => nomatch h⟩, hfield⟩
  | fieldLineUp => exact lineLaw_iff.mpr ⟨hhead, ⟨fun h => (nomatch h), fun h => (nomatch h), fun _ h => nomatch h⟩⟩
  | headLineDown =>
    exact lineLaw_iff.mpr ⟨⟨fun _ h => (nomatch h), fun _ => rfl, fun h => nomatch h⟩, by simpa using hfield⟩
  | fieldLineDown =>
    refine lineLaw_iff.mpr ⟨by simpa using hhead, ?_⟩
    rw [fieldPort_loseField]
    exact endFieldReceive_fieldLaw s _
  | issueSelection i e start => exact lineLaw_iff.mpr ⟨hhead, hfield.start (fieldPort_up_of_fieldStart start) _ _⟩
  | broadcastSelection i e start => exact lineLaw_iff.mpr ⟨hhead, hfield.start (fieldPort_up_of_fieldStart start) _ _⟩
  | receiptTransmitStart r start => exact lineLaw_iff.mpr ⟨hhead, hfield.start (fieldPort_up_of_fieldStart start) _ _⟩
  | issueTransmitCompletion => exact lineLaw_iff.mpr ⟨by simpa using hhead, by simpa using hfield.idle⟩
  | broadcastTransmitCompletion => exact lineLaw_iff.mpr ⟨by simpa using hhead, by simpa using hfield.idle⟩
  | receiptTransmitCompletion => exact lineLaw_iff.mpr ⟨hhead, hfield.idle⟩
  | headTransmitStart f first => exact lineLaw_iff.mpr ⟨hhead.start (headPort_up_of_headStart first) _ _, hfield⟩
  | outcomeTransmitCompletion => exact lineLaw_iff.mpr ⟨by simpa using hhead.idle, by simpa using hfield⟩
  | reportDeliveryCompletion => exact lineLaw_iff.mpr ⟨hhead.idle, hfield⟩
  | controlTransmitCompletion => exact lineLaw_iff.mpr ⟨hhead.idle, hfield⟩
  | tick a b c d => exact lineLaw_iff.mpr ⟨by simpa [State.ticked] using hhead.sample b, by simpa [State.ticked] using hfield.sample c⟩
  | directive c u d rest status result intake place body =>
    have taken : s.taken.LineLaw := law.of_fields rfl rfl
    exact (taken.directive_effect body).of_fields rfl rfl
  | _ => exact law.of_fields (by simp) (by simp)

/-- Settles O4: what each command makes of the parameters, the lengths and the phase, and of the two ports. -/
theorem stepKeepsClockAndLineLaws : Obligations.StepKeepsClockAndLineLaws := by
  refine ⟨fun _ _ law => step_keeps (fun _ _ law => law.of_fields rfl rfl rfl) (fun law => law.effect) law,
    fun _ _ law => step_keeps (fun _ _ law => law.of_fields rfl rfl) (fun law => law.effect) law⟩

end Sys2Proof.Machine

/-! What every step keeps of the Policy Table (chapter 3) and of the capacities of the collections (R20, R40, R86, R172). -/

namespace Sys2Proof.Machine

-- One theorem at a time, as in the tests: the memory limit of the check leaves room for few threads.
set_option Elab.async false

variable {s t : State}

/-! ## The Policy Table -/

/-- The canonical order tells every two keys apart (log 11). -/
theorem keyRank_inj {k j : PolicyKey} (h : keyRank k = keyRank j) : k = j := by
  obtain ⟨node, function⟩ := k
  obtain ⟨node', function'⟩ := j
  unfold keyRank at h
  cases function with
  | none =>
    cases function' with
    | none => simp at h; simp [h]
    | some g => have := g.isLt; simp at h; omega
  | some f =>
    have := f.isLt
    cases function' with
    | none => simp at h; omega
    | some g =>
      have := g.isLt
      have hnode : node = node' := by simp at h; omega
      have hfunction : f.toNat = g.toNat := by simp at h; omega
      rw [hnode, BitVec.toNat_inj.mp hfunction]

theorem mem_storePolicy {p q : Policy} {table : List Policy} (h : q ∈ storePolicy p table) : q = p ∨ q ∈ table := by
  induction table with
  | nil => simpa [storePolicy] using h
  | cons r table ih =>
    rw [storePolicy] at h
    split_ifs at h
    · rcases List.mem_cons.mp h with h | h
      · exact .inl h
      · exact .inr (.tail _ h)
    · exact List.mem_cons.mp h
    · rcases List.mem_cons.mp h with h | h
      · exact .inr (h ▸ .head _)
      · exact (ih h).imp_right (.tail _)

/-- Storing an entry keeps the canonical order (R47, log 11). -/
theorem sorted_storePolicy (p : Policy) {table : List Policy}
    (h : table.Pairwise fun q r => keyRank q.key < keyRank r.key) :
    (storePolicy p table).Pairwise fun q r => keyRank q.key < keyRank r.key := by
  induction table with
  | nil => simp [storePolicy]
  | cons q table ih =>
    obtain ⟨hq, hrest⟩ := List.pairwise_cons.mp h
    rw [storePolicy]
    split_ifs with hsame hbefore
    · exact List.pairwise_cons.mpr ⟨fun r hr => hsame ▸ hq r hr, hrest⟩
    · refine List.pairwise_cons.mpr ⟨fun r hr => ?_, h⟩
      rcases List.mem_cons.mp hr with rfl | hr
      · exact hbefore
      · exact hbefore.trans (hq r hr)
    · refine List.pairwise_cons.mpr ⟨fun r hr => ?_, ih hrest⟩
      rcases mem_storePolicy hr with rfl | hr
      · have hne : keyRank q.key ≠ keyRank r.key := fun h => hsame (keyRank_inj h)
        omega
      · exact hq r hr

theorem State.PolicyLaw.of_policies (law : s.PolicyLaw) (h : t.policies = s.policies) : t.PolicyLaw :=
  ⟨h ▸ law.valid, h ▸ law.sorted⟩

/-- What a directive does keeps the laws of the Policy Table (R47, R48). -/
theorem State.PolicyLaw.directive_effect (law : s.PolicyLaw) {c : Instr} (h : DirectiveEffect s c t) : t.PolicyLaw := by
  cases h with
  | loadPolicy arguments p image place =>
    have hvalid := (policyOfImage_eq_some.mp image).2
    refine ⟨fun q hq => ?_, sorted_storePolicy p law.sorted⟩
    rcases mem_storePolicy hq with rfl | hq
    · exact hvalid
    · exact law.valid q hq
  | dropPolicy k => exact ⟨fun q hq => law.valid q (List.mem_of_mem_filter hq), law.sorted.filter _⟩
  | cancelExchange i e => exact law.of_policies (by simp)
  | cancelNode n => exact law.of_policies (foldl_field State.policies _ (by simp) _ s)
  | _ => exact law.of_policies rfl

theorem State.PolicyLaw.effect (law : s.PolicyLaw) {c : Instr} (h : Effect s c t) : t.PolicyLaw := by
  cases h with
  | reset => exact ⟨fun _ h => (nomatch h), List.Pairwise.nil⟩
  | directive c u d rest status result intake place body =>
    have taken : s.taken.PolicyLaw := law.of_policies rfl
    exact (taken.directive_effect body).of_policies rfl
  | _ => exact law.of_policies (by simp)

/-! ## The control places -/

theorem controlUsed_of_delivery (h : t.delivery = s.delivery) : t.controlUsed = s.controlUsed := by
  simp only [State.controlUsed, h]

@[simp] theorem controlUsed_place (s : State) (f : Frame) : (s.place f).controlUsed = s.controlUsed + 1 := by
  simp [State.controlUsed, List.countP_append, Item.isControl]

@[simp] theorem controlUsed_tally (s : State) (c : Counter) : (s.tally c).controlUsed = s.controlUsed := rfl

@[simp] theorem controlUsed_raiseFlag (s : State) (f : Flag) : (s.raiseFlag f).controlUsed = s.controlUsed := rfl

@[simp] theorem controlUsed_setNodeState (s : State) (n : Nat) (st : NodeState) :
    (s.setNodeState n st).controlUsed = s.controlUsed := rfl

@[simp] theorem controlUsed_noteLatency (s : State) (n l : Nat) : (s.noteLatency n l).controlUsed = s.controlUsed := rfl

@[simp] theorem controlUsed_conclude (s : State) (i : Slot) (e : Exchange) (o : OutcomeCode) :
    (s.conclude i e o).controlUsed = s.controlUsed := by
  simp [State.controlUsed, List.countP_append, Item.isControl]

@[simp] theorem controlUsed_becomeDeferred (s : State) (i : Slot) (e : Exchange) (due : Mono) :
    (s.becomeDeferred i e due).controlUsed = s.controlUsed := rfl

@[simp] theorem controlUsed_becomeReady (s : State) (i : Slot) (e : Exchange) :
    (s.becomeReady i e).controlUsed = s.controlUsed := rfl

@[simp] theorem controlUsed_takeSilence (s : State) (i : Slot) (e : Exchange) :
    (s.takeSilence i e).controlUsed = s.controlUsed := by
  rcases s.takeSilence_cases i e with ⟨-, h⟩ | ⟨-, h⟩ <;> simp [h]

@[simp] theorem controlUsed_endExchange (s : State) (i : Slot) (e : Exchange) (o : OutcomeCode) :
    (s.endExchange i e o).controlUsed = s.controlUsed := by
  rcases s.endExchange_cases i e o with ⟨-, h⟩ | ⟨-, h⟩ | ⟨-, h⟩ | ⟨-, h⟩ <;> simp [h]

@[simp] theorem controlUsed_cancelSlot (s : State) (i : Slot) : (s.cancelSlot i).controlUsed = s.controlUsed := by
  unfold State.cancelSlot
  split <;> simp

@[simp] theorem controlUsed_loseIssue (s : State) (i : Slot) : (s.loseIssue i).controlUsed = s.controlUsed := by
  rcases s.loseIssue_cases i with ⟨-, h⟩ | ⟨e, -, -, ⟨-, h⟩ | ⟨-, -, h⟩ | ⟨-, -, h⟩⟩ <;> simp [h]

@[simp] theorem controlUsed_loseField (s : State) (arrived : Bool) : (s.loseField arrived).controlUsed = s.controlUsed := by
  have hfold (l : List Slot) (u : State) : (l.foldl State.loseIssue u).controlUsed = u.controlUsed :=
    foldl_field State.controlUsed _ controlUsed_loseIssue l u
  unfold State.loseField
  exact (hfold _ _).trans (controlUsed_of_delivery (by simp))

@[simp] theorem controlUsed_oweReceipt (s : State) (r : Receipt) : (s.oweReceipt r).controlUsed = s.controlUsed :=
  controlUsed_of_delivery (by simp)

@[simp] theorem controlUsed_answerArrives (s : State) (f : Frame) : (s.answerArrives f).controlUsed = s.controlUsed := by
  unfold State.answerArrives State.takeAnswer
  split
  · split <;> simp
  · rfl
  · rfl

@[simp] theorem controlUsed_deferArrives (s : State) (f : Frame) : (s.deferArrives f).controlUsed = s.controlUsed := by
  unfold State.deferArrives State.takeDefer
  split
  · split <;> simp
  · rfl
  · rfl

/-! ## The capacities -/

/-- The Receipt Queue is emptied at the field line's change to DOWN (R122). -/
theorem receipts_loseField (s : State) (arrived : Bool) : (s.loseField arrived).receipts = [] := by
  unfold State.loseField
  exact foldl_field State.receipts _ (by simp) _ _

/-- Collections that do not grow stay within their capacities. -/
theorem State.CapacityLaw.of_le (law : s.CapacityLaw) (hintake : t.intake.length ≤ s.intake.length)
    (hreceipts : t.receipts.length ≤ s.receipts.length) (hcontrol : t.controlUsed ≤ s.controlUsed)
    (hpolicies : t.policies.length ≤ s.policies.length) : t.CapacityLaw :=
  ⟨hintake.trans law.intake, hreceipts.trans law.receipts, hcontrol.trans law.control, hpolicies.trans law.policies⟩

/-- A control record is placed only while a control place is free (R172, R174). -/
theorem State.CapacityLaw.place (law : s.CapacityLaw) (h : s.controlFree = true) (f : Frame) : (s.place f).CapacityLaw :=
  ⟨law.intake, law.receipts, by rw [controlUsed_place]; exact s.controlFree_iff.mp h, law.policies⟩

theorem State.CapacityLaw.oweReceipt (law : s.CapacityLaw) (r : Receipt) : (s.oweReceipt r).CapacityLaw := by
  rcases s.oweReceipt_cases r with ⟨hroom, h⟩ | ⟨-, h⟩ <;> rw [h]
  · exact ⟨law.intake, by simpa [Config.receiptCapacity] using hroom, law.control, law.policies⟩
  · exact law.of_le le_rfl le_rfl le_rfl le_rfl

theorem State.CapacityLaw.offer (law : s.CapacityLaw) (f : Frame) : (s.offer f).CapacityLaw := by
  unfold State.offer
  split
  · next hroom => exact ⟨by simpa using hroom, law.receipts, law.control, law.policies⟩
  · exact law.of_le le_rfl le_rfl le_rfl le_rfl

theorem State.CapacityLaw.reportArrives (law : s.CapacityLaw) (f : Frame) : (s.reportArrives f).CapacityLaw := by
  have owes {u : State} (r : Receipt) (hintake : u.intake = s.intake) (hreceipts : u.receipts = s.receipts)
      (hcontrol : u.controlUsed = s.controlUsed) (hpolicies : u.policies = s.policies) : (u.oweReceipt r).CapacityLaw :=
    State.CapacityLaw.oweReceipt
      (law.of_le (by rw [hintake]) (by rw [hreceipts]) hcontrol.le (by rw [hpolicies])) r
  unfold State.reportArrives
  split
  · exact owes _ rfl rfl rfl rfl
  · split
    · split
      · exact owes _ rfl rfl (by simp [State.controlUsed, List.countP_append, Item.isControl]) rfl
      · exact owes _ rfl rfl rfl rfl
    · exact owes _ rfl rfl rfl rfl

theorem State.CapacityLaw.arrive (law : s.CapacityLaw) (line : Line) (bytes : List Byte) :
    (s.arrive line bytes).CapacityLaw := by
  have ended (c : Counter) : ((s.endReceive line).tally c).CapacityLaw :=
    law.of_le (by simp) (by simp) (controlUsed_of_delivery (by simp)).le (by simp)
  unfold State.arrive
  split
  · next f _ =>
    unfold State.handOn
    cases f.kind with
    | request | directive => exact (ended _).offer f
    | report => exact (ended _).reportArrives f
    | answer | defer => exact (ended (goodCounter line)).of_le (by simp) (by simp) (by simp) (by simp)
    | _ => exact ended _
  all_goals exact ended _

theorem capacityLaw_reset : State.reset.CapacityLaw := by
  constructor <;> decide

/-- What a directive does keeps the capacities, and uses no control place beside its ACKNOWLEDGE. -/
theorem State.CapacityLaw.directive_effect (policy : s.PolicyLaw) (law : s.CapacityLaw) {c : Instr}
    (h : DirectiveEffect s c t) : t.CapacityLaw ∧ t.controlUsed ≤ s.controlUsed := by
  have kept {u : State} (hintake : u.intake = s.intake) (hreceipts : u.receipts = s.receipts)
      (hcontrol : u.controlUsed = s.controlUsed) (hpolicies : u.policies = s.policies) :
      u.CapacityLaw ∧ u.controlUsed ≤ s.controlUsed :=
    ⟨law.of_le (by rw [hintake]) (by rw [hreceipts]) hcontrol.le (by rw [hpolicies]), hcontrol.le⟩
  cases h with
  | loadPolicy arguments p image place =>
    refine ⟨⟨law.intake, law.receipts, law.control, ?_⟩, le_rfl⟩
    change (storePolicy p s.policies).length ≤ 128
    by_cases hpresent : ∃ q ∈ s.policies, q.key = p.key
    · rw [length_storePolicy_of_present policy.sorted hpresent]
      exact law.policies
    · have habsent : ∀ q ∈ s.policies, q.key ≠ p.key := fun q hq hkey => hpresent ⟨q, hq, hkey⟩
      rw [length_storePolicy_of_absent habsent]
      exact place.resolve_left fun hfound => hpresent (findPolicy_isSome.mp hfound)
  | dropPolicy k =>
    exact ⟨⟨law.intake, law.receipts, law.control, (List.length_filter_le _ _).trans law.policies⟩, le_rfl⟩
  | cancelExchange i e => exact kept (by simp) (by simp) (by simp) (by simp)
  | cancelNode n =>
    exact kept (foldl_field State.intake _ (by simp) _ s) (foldl_field State.receipts _ (by simp) _ s)
      (foldl_field State.controlUsed _ (by simp) _ s) (foldl_field State.policies _ (by simp) _ s)
  | postGrant n k =>
    refine kept rfl rfl ?_ rfl
    have hreports (l : List StoreIndex) : (l.map Item.report).countP Item.isControl = 0 := by
      simp [List.countP_map, List.countP_eq_zero, Item.isControl]
    simp only [State.controlUsed, State.grant, State.updateNode_delivery, List.countP_append, hreports, Nat.add_zero]
  | restart => exact ⟨⟨law.intake, Nat.zero_le _, Nat.zero_le _, law.policies⟩, Nat.zero_le _⟩
  | _ => exact kept rfl rfl rfl rfl

theorem State.CapacityLaw.effect (policy : s.PolicyLaw) (law : s.CapacityLaw) {c : Instr} (h : Effect s c t) :
    t.CapacityLaw := by
  have kept {u : State} (hintake : u.intake = s.intake) (hreceipts : u.receipts = s.receipts)
      (hcontrol : u.controlUsed = s.controlUsed) (hpolicies : u.policies = s.policies) : u.CapacityLaw :=
    law.of_le (by rw [hintake]) (by rw [hreceipts]) hcontrol.le (by rw [hpolicies])
  have completed : s.completeHead.controlUsed ≤ s.controlUsed := (List.tail_sublist _).countP_le
  cases h with
  | reset => exact capacityLaw_reset.of_le le_rfl le_rfl le_rfl le_rfl
  | arrival _ line bytes => exact law.arrive line bytes
  | fieldLineDown =>
    exact law.of_le (by simp) (by simp [receipts_loseField]) (by simp) (by simp)
  | receiptTransmitStart r => exact law.of_le le_rfl (List.length_tail ▸ Nat.sub_le _ _) le_rfl le_rfl
  | broadcastTransmitCompletion i number window e =>
    exact kept (by simp) (by simp) (controlUsed_conclude s i (completedRecord s e) .sent) (by simp)
  | outcomeTransmitCompletion i rest first =>
    exact law.of_le (by simp) (by simp) ((controlUsed_of_delivery (by simp)).trans_le completed) (by simp)
  | reportDeliveryCompletion k rest first => exact law.of_le le_rfl le_rfl completed le_rfl
  | controlTransmitCompletion f rest first => exact law.of_le le_rfl le_rfl completed le_rfl
  | answerWindowExpiry i e => exact kept (by simp) (by simp) (by simp) (by simp)
  | lifetimeEnd i e => exact kept (by simp) (by simp) (by simp) (by simp)
  | requestAdmitted f rest p i intake => exact law.of_le (by simp [intake]) le_rfl le_rfl le_rfl
  | requestRefused f rest code intake verdict place =>
    have taken : (State.tally { s with intake := rest } .refusals).CapacityLaw :=
      law.of_le (by simp [intake]) le_rfl le_rfl le_rfl
    exact taken.place place _
  | flagsRaisedNoticePlaced ready =>
    simp only [State.flagsNoticeReady, Bool.and_eq_true] at ready
    have owed : State.CapacityLaw { s with flagsOwed := false } := law.of_le le_rfl le_rfl le_rfl le_rfl
    exact owed.place ready.1.2 _
  | grantWantedNoticePlaced n ready =>
    have sent : (State.updateNode { s with owedOrder := s.owedOrder.tail } n fun e => { e with notice := .sent }).CapacityLaw :=
      law.of_le le_rfl le_rfl le_rfl le_rfl
    refine sent.place ?_ _
    unfold State.grantNoticeNode at ready
    split at ready
    · next h =>
      simp only [Bool.and_eq_true] at h
      exact h.1.1
    · cases ready
  | directive c u d rest status result intake place body =>
    have taken : s.taken.CapacityLaw := law.of_le (by simp) le_rfl le_rfl le_rfl
    have policyTaken : s.taken.PolicyLaw := policy.of_policies rfl
    obtain ⟨after, hused⟩ := State.CapacityLaw.directive_effect policyTaken taken body
    exact after.place (u.controlFree_iff.mpr (hused.trans_lt (s.controlFree_iff.mp place))) _
  | _ => exact kept (by simp) (by simp) (controlUsed_of_delivery (by simp)) (by simp)

/-- Settles O5: the Policy Table changes by its two directives alone, and a collection grows only where it has room. -/
theorem stepKeepsPolicyAndCapacityLaws : Obligations.StepKeepsPolicyAndCapacityLaws := by
  intro s t policy capacity h
  exact step_keeps (Law := fun s => s.PolicyLaw ∧ s.CapacityLaw)
    (fun _ _ law => ⟨law.1.of_policies rfl, law.2.of_le le_rfl le_rfl le_rfl le_rfl⟩)
    (fun law he => ⟨law.1.effect he, State.CapacityLaw.effect law.1 law.2 he⟩) ⟨policy, capacity⟩ h

end Sys2Proof.Machine

/-! Age order (R58, R59): the slots taken oldest first, and what a slot that joins at its admission position keeps. -/

namespace Sys2Proof.Machine

-- One theorem at a time, as in the tests: the memory limit of the check leaves room for few threads.
set_option Elab.async false

variable {s : State}

/-! ## The slots taken -/

/-- Whether a slot holds an exchange that satisfies a test. -/
def State.holds (s : State) (test : Exchange → Bool) (i : Slot) : Bool := (s.slot i).any test

theorem holds_iff {test : Exchange → Bool} {i : Slot} :
    s.holds test i = true ↔ ∃ e, s.slot i = some e ∧ test e = true := by
  simp [State.holds, Option.any_eq_true]

/-- One round of the taking by age: a slot that satisfies the test joins before the first younger one. -/
def State.takeByAge (s : State) (test : Exchange → Bool) (acc : List Slot) (i : Slot) : List Slot :=
  match s.slot i with
  | some e => if test e then insertBefore (s.younger e.admissionSeq) i acc else acc
  | none => acc

theorem slotsByAge_eq (s : State) (test : Exchange → Bool) : s.slotsByAge test = allSlots.foldl (s.takeByAge test) [] := rfl

theorem takeByAge_of_holds {test : Exchange → Bool} {i : Slot} (h : s.holds test i = true) (acc : List Slot) :
    s.takeByAge test acc i = insertBefore (s.younger (s.sequenceOf i)) i acc := by
  obtain ⟨e, he, ht⟩ := holds_iff.mp h
  simp only [State.takeByAge, State.sequenceOf, he, ht, if_true]

theorem takeByAge_of_not_holds {test : Exchange → Bool} {i : Slot} (h : s.holds test i = false) (acc : List Slot) :
    s.takeByAge test acc i = acc := by
  unfold State.takeByAge
  split
  · next e he => rw [if_neg]; simpa [State.holds, he] using h
  · rfl

theorem foldl_takeByAge_perm (s : State) (test : Exchange → Bool) (l acc : List Slot) :
    (l.foldl (s.takeByAge test) acc).Perm (l.filter (s.holds test) ++ acc) := by
  induction l generalizing acc with
  | nil => exact List.Perm.refl _
  | cons i l ih =>
    rw [List.foldl_cons]
    refine (ih _).trans ?_
    cases hi : s.holds test i with
    | false => rw [takeByAge_of_not_holds hi, List.filter_cons_of_neg (by simp [hi])]
    | true =>
      rw [takeByAge_of_holds hi, List.filter_cons_of_pos hi]
      exact ((insertBefore_perm _ i acc).append_left _).trans List.perm_middle

/-- The slots taken are those that satisfy the test, in another order. -/
theorem slotsByAge_perm (s : State) (test : Exchange → Bool) : (s.slotsByAge test).Perm (allSlots.filter (s.holds test)) := by
  simpa [slotsByAge_eq] using foldl_takeByAge_perm s test allSlots []

theorem mem_slotsByAge {test : Exchange → Bool} {i : Slot} :
    i ∈ s.slotsByAge test ↔ ∃ e, s.slot i = some e ∧ test e = true := by
  rw [(slotsByAge_perm s test).mem_iff, List.mem_filter, holds_iff]
  simp [allSlots]

theorem nodup_slotsByAge (s : State) (test : Exchange → Bool) : (s.slotsByAge test).Nodup :=
  (slotsByAge_perm s test).nodup_iff.mpr ((List.nodup_finRange 24).filter _)

/-! ## The order -/

/-- Sequences within half the range of a base are older by their distance from it (R58). -/
theorem olderSeq_iff {a b base : AdmissionSeq} (ha : (a - base).toNat < 2 ^ 31) (hb : (b - base).toNat < 2 ^ 31) :
    olderSeq a b = true ↔ (a - base).toNat < (b - base).toNat := by
  have hdiff : b - a = (b - base) - (a - base) :=
    (sub_sub_sub_cancel_right b a base).symm
  unfold olderSeq
  rw [hdiff]
  generalize a - base = x at ha ⊢
  generalize b - base = y at hb ⊢
  rw [BitVec.toNat_sub]
  simp only [decide_eq_true_eq]
  omega

/-- Two slots in age order. -/
def State.inAgeOrder (s : State) (i j : Slot) : Prop := olderSeq (s.sequenceOf i) (s.sequenceOf j) = true

/-- The open exchanges lie within half the range of a base, each with its own sequence. -/
structure State.Ordered (s : State) (base : AdmissionSeq) : Prop where
  near : ∀ i e, s.slot i = some e → (e.admissionSeq - base).toNat < 2 ^ 31
  distinct : ∀ i j e f, s.slot i = some e → s.slot j = some f → e.admissionSeq = f.admissionSeq → i = j

/-- The distance of a slot's admission sequence from a base. -/
def State.age (s : State) (base : AdmissionSeq) (i : Slot) : Nat := (s.sequenceOf i - base).toNat

section
variable {base : AdmissionSeq} (h : s.Ordered base)
include h

theorem State.Ordered.inAgeOrder_iff {i j : Slot} (hi : s.slot i ≠ none) (hj : s.slot j ≠ none) :
    s.inAgeOrder i j ↔ s.age base i < s.age base j := by
  obtain ⟨e, he⟩ := Option.ne_none_iff_exists'.mp hi
  obtain ⟨f, hf⟩ := Option.ne_none_iff_exists'.mp hj
  have hbound := olderSeq_iff (h.near i e he) (h.near j f hf)
  simpa only [State.inAgeOrder, State.age, State.sequenceOf, he, hf] using hbound

theorem State.Ordered.younger_iff {i j : Slot} (hi : s.slot i ≠ none) (hj : s.slot j ≠ none) :
    s.younger (s.sequenceOf i) j = true ↔ s.age base i < s.age base j := by
  rw [← h.inAgeOrder_iff hi hj]
  obtain ⟨f, hf⟩ := Option.ne_none_iff_exists'.mp hj
  simp only [State.younger, State.inAgeOrder, State.sequenceOf, hf]

theorem State.Ordered.age_ne {i j : Slot} (hi : s.slot i ≠ none) (hj : s.slot j ≠ none) (hne : i ≠ j) :
    s.age base i ≠ s.age base j := by
  obtain ⟨e, he⟩ := Option.ne_none_iff_exists'.mp hi
  obtain ⟨f, hf⟩ := Option.ne_none_iff_exists'.mp hj
  intro hage
  simp only [State.age, State.sequenceOf, he, hf] at hage
  exact hne (h.distinct i j e f he hf (sub_left_inj.mp (BitVec.toNat_inj.mp hage)))

/-- A slot that joins at its admission position keeps the age order (R59). -/
theorem State.Ordered.insertBefore {i : Slot} {l : List Slot} (hi : s.slot i ≠ none) (hnew : i ∉ l)
    (hopen : ∀ j ∈ l, s.slot j ≠ none) (hl : l.Pairwise s.inAgeOrder) :
    (insertBefore (s.younger (s.sequenceOf i)) i l).Pairwise s.inAgeOrder := by
  induction l with
  | nil => simp [Machine.insertBefore]
  | cons j l ih =>
    obtain ⟨hnej, hnewl⟩ := not_or.mp (List.mem_cons.not.mp hnew)
    obtain ⟨hj, hopenl⟩ := List.forall_mem_cons.mp hopen
    obtain ⟨hjl, hpair⟩ := List.pairwise_cons.mp hl
    rw [Machine.insertBefore]
    split
    · next hyounger =>
      have hij := (h.younger_iff hi hj).mp hyounger
      refine List.pairwise_cons.mpr ⟨fun k hk => ?_, hl⟩
      rcases List.mem_cons.mp hk with rfl | hk
      · exact (h.inAgeOrder_iff hi hj).mpr hij
      · have hjk := (h.inAgeOrder_iff hj (hopenl k hk)).mp (hjl k hk)
        exact (h.inAgeOrder_iff hi (hopenl k hk)).mpr (hij.trans hjk)
    · next hyounger =>
      have hji : s.age base j < s.age base i := by
        have := mt (h.younger_iff hi hj).mpr hyounger
        have := h.age_ne hi hj hnej
        omega
      refine List.pairwise_cons.mpr ⟨fun k hk => ?_, ih hnewl hopenl hpair⟩
      rcases (mem_insertBefore _ _ _ _).mp hk with rfl | hk
      · exact (h.inAgeOrder_iff hj hi).mpr hji
      · exact hjl k hk

/-- The slots taken by age are in age order (R58). -/
theorem State.Ordered.slotsByAge (test : Exchange → Bool) : (s.slotsByAge test).Pairwise s.inAgeOrder := by
  have hfold (l acc : List Slot) (hl : l.Nodup) (hapart : ∀ i ∈ l, i ∉ acc) (hopen : ∀ j ∈ acc, s.slot j ≠ none)
      (hacc : acc.Pairwise s.inAgeOrder) : (l.foldl (s.takeByAge test) acc).Pairwise s.inAgeOrder := by
    induction l generalizing acc with
    | nil => exact hacc
    | cons i l ih =>
      obtain ⟨hil, hl⟩ := List.nodup_cons.mp hl
      obtain ⟨hia, hla⟩ := List.forall_mem_cons.mp hapart
      rw [List.foldl_cons]
      cases hi : s.holds test i with
      | false =>
        rw [takeByAge_of_not_holds hi]
        exact ih acc hl hla hopen hacc
      | true =>
        rw [takeByAge_of_holds hi]
        obtain ⟨e, he, -⟩ := holds_iff.mp hi
        have hslot : s.slot i ≠ none := by simp [he]
        refine ih _ hl (fun k hk hmem => ?_) (fun k hk => ?_) (h.insertBefore hslot hia hopen hacc)
        · rcases (mem_insertBefore _ _ _ _).mp hmem with rfl | hmem
          · exact hil hk
          · exact hla k hk hmem
        · rcases (mem_insertBefore _ _ _ _).mp hk with rfl | hk
          · exact hslot
          · exact hopen k hk
  exact hfold allSlots [] (List.nodup_finRange 24) (fun _ _ h => nomatch h) (fun _ h => nomatch h) List.Pairwise.nil

end

/-- Settles O60: the taking is a permutation of the slots that satisfy the test, and within half the range of a base the age order
is the order of the distances from it, which an insertion keeps. -/
theorem ageOrder : Obligations.AgeOrder := by
  refine ⟨fun s test => ⟨nodup_slotsByAge s test, fun i => mem_slotsByAge⟩, fun s base hnear hdistinct => ?_⟩
  have h : s.Ordered base := ⟨hnear, hdistinct⟩
  refine ⟨fun test => h.slotsByAge test, fun i e l he hnew hopen hl => ?_⟩
  have hseq : s.sequenceOf i = e.admissionSeq := by simp only [State.sequenceOf, he]
  exact hseq ▸ h.insertBefore (by simp [he]) hnew hopen hl

end Sys2Proof.Machine

/-! The laws of exchanges (chapter 4) slot by slot: what they say of one slot, and that a change of one slot keeps them when the slot
meets them afterwards and every other is left alone. -/

namespace Sys2Proof.Machine

-- One theorem at a time, as in the tests: the memory limit of the check leaves room for few threads.
set_option Elab.async false

variable {s t : State}

/-! ## What the laws say of one slot -/

/-- The slot that a node state names: the one it is OCCUPIED or HELD by. -/
def NodeState.slot? : NodeState → Option Slot
  | .occupied i => some i
  | .held i => some i
  | .idle => none
  | .quiet _ => none

/-- The state in which an exchange of a slot has its node: OCCUPIED when it is ISSUED to a field node, HELD when it is DEFERRED or
READY (R63). -/
def Exchange.claim (i : Slot) (e : Exchange) : Option NodeState :=
  match e.state with
  | .issued => if e.node = 63 then none else some (.occupied i)
  | .deferred => some (.held i)
  | .ready => some (.held i)
  | .waiting => none
  | .concluded => none

/-- The states of the exchanges in the pending order (R59). -/
def ExchangeState.isPending : ExchangeState → Bool
  | .waiting => true
  | .ready => true
  | .issued => false
  | .deferred => false
  | .concluded => false

/-- What the laws say of an exchange alone: its node, and what a broadcast is not (R96). -/
structure Exchange.Sound (e : Exchange) : Prop where
  node : 1 ≤ e.node ∧ e.node ≤ 63
  broadcast : e.node = 63 → e.answerDue = none ∧ e.state ≠ .deferred ∧ e.state ≠ .ready

/-- What the laws say of a slot that holds x: the node states that name it, and its places in the pending order, the deferral list
and the Delivery List (R59, R60, R63, R172). -/
structure State.SlotLaw (s : State) (i : Slot) (x : Option Exchange) : Prop where
  sound : ∀ e, x = some e → e.Sound
  claims : ∀ n st, st.slot? = some i →
    ((s.node n).state = st ↔ ∃ e, x = some e ∧ e.node = n ∧ e.claim i = some st)
  pending : i ∈ s.pendingOrder ↔ ∃ e, x = some e ∧ e.state.isPending = true
  deferral : i ∈ s.deferralList ↔ ∃ e, x = some e ∧ e.state = .deferred
  conclusion : Item.conclusion i ∈ s.delivery ↔ ∃ e, x = some e ∧ e.state = .concluded

/-- Every slot meets its law, and the three lists hold no slot twice. -/
structure State.SlotLaws (s : State) : Prop where
  slot : ∀ i, s.SlotLaw i (s.slot i)
  pendingOnce : s.pendingOrder.Nodup
  deferralOnce : s.deferralList.Nodup
  conclusionOnce : ∀ i, s.delivery.count (.conclusion i) ≤ 1

/-- Every frame of the Head Intake is addressed to a node or to all. -/
def State.IntakeLaw (s : State) : Prop := ∀ f ∈ s.intake, f.node.toNat ≤ 63

/-- The live fields and the staged copy of an entry are in range (R163). -/
def ScheduleEntry.InRange (e : ScheduleEntry) : Prop :=
  ∀ fields, e.live = some fields ∨ e.staged = some fields → scheduleFieldsValid fields = true

/-- Every entry of the Cycle Schedule is in range. -/
def State.EntriesLaw (s : State) : Prop := ∀ k, (s.entry k).InRange

theorem claim_eq_occupied {i j : Slot} {e : Exchange} :
    e.claim i = some (.occupied j) ↔ i = j ∧ e.node ≠ 63 ∧ e.state = .issued := by
  unfold Exchange.claim
  cases e.state <;> simp
  by_cases h : e.node = 63 <;> simp [h]

theorem claim_eq_held {i j : Slot} {e : Exchange} :
    e.claim i = some (.held j) ↔ i = j ∧ (e.state = .deferred ∨ e.state = .ready) := by
  unfold Exchange.claim
  cases e.state <;> simp

theorem isPending_iff {st : ExchangeState} : st.isPending = true ↔ st = .waiting ∨ st = .ready := by
  cases st <;> simp [ExchangeState.isPending]

/-- The laws of exchanges and of conclusion items are those of the slots, of the intake and of the schedule entries. -/
theorem exchangeLaws_iff : s.ExchangeLaw ∧ s.ConclusionLaw ↔ s.SlotLaws ∧ s.IntakeLaw ∧ s.EntriesLaw := by
  constructor
  · rintro ⟨he, hc⟩
    refine ⟨⟨fun i => ⟨fun e h => ⟨he.nodes i e h, he.broadcast i e h⟩, fun n st hst => ?_, ?_, he.deferralList i,
      hc.concluded i⟩, he.pendingOnce, he.deferralOnce, hc.once⟩, he.intake, fun k => he.schedule k⟩
    · cases st with
      | idle => cases hst
      | quiet q => cases hst
      | occupied j =>
        obtain rfl := Option.some.inj hst
        rw [he.occupied]
        simp only [claim_eq_occupied, true_and]
        constructor
        · rintro ⟨hn, e, hs, rfl, hstate⟩; exact ⟨e, hs, rfl, hn, hstate⟩
        · rintro ⟨e, hs, rfl, hn, hstate⟩; exact ⟨hn, e, hs, rfl, hstate⟩
      | held j =>
        obtain rfl := Option.some.inj hst
        rw [he.held]
        simp only [claim_eq_held, true_and]
    · rw [he.pendingOrder]
      simp only [isPending_iff]
  · rintro ⟨⟨slot, pendingOnce, deferralOnce, conclusionOnce⟩, intake, entries⟩
    refine ⟨⟨fun i e h => ((slot i).sound e h).node, fun n i => ?_, fun n i => ?_, fun i e h => ((slot i).sound e h).broadcast,
      fun i => ?_, pendingOnce, fun i => (slot i).deferral, deferralOnce, intake, fun k live => entries k live⟩,
      ⟨fun i => (slot i).conclusion, conclusionOnce⟩⟩
    · rw [(slot i).claims n (.occupied i) rfl]
      simp only [claim_eq_occupied, true_and]
      constructor
      · rintro ⟨e, hs, rfl, hn, hstate⟩; exact ⟨hn, e, hs, rfl, hstate⟩
      · rintro ⟨hn, e, hs, rfl, hstate⟩; exact ⟨e, hs, rfl, hn, hstate⟩
    · rw [(slot i).claims n (.held i) rfl]
      simp only [claim_eq_held, true_and]
    · rw [(slot i).pending]
      simp only [isPending_iff]

/-! ## The node of an exchange -/

/-- An exchange that claims its node finds it in the state claimed (R63). -/
theorem State.SlotLaw.node_state {i : Slot} {e : Exchange} {st : NodeState} (law : s.SlotLaw i (some e))
    (h : e.claim i = some st) : (s.node e.node).state = st := by
  have hst : st.slot? = some i := by
    unfold Exchange.claim at h
    split at h <;> (try split at h) <;> cases h <;> rfl
  exact (law.claims e.node st hst).mpr ⟨e, rfl, rfl, h⟩

/-- A node state that names a slot stands at a field node, and the slot's exchange claims it (R63). -/
theorem State.SlotLaws.claimed (law : s.SlotLaws) {n : Nat} {i : Slot} (h : (s.node n).state.slot? = some i) :
    1 ≤ n ∧ n ≤ 62 ∧ ∃ e, s.slot i = some e ∧ e.node = n ∧ e.claim i = some (s.node n).state := by
  have hrange : 1 ≤ n ∧ n ≤ 62 := by
    by_contra hn
    rw [s.node_outside hn] at h
    exact nomatch h
  exact ⟨hrange.1, hrange.2, ((law.slot i).claims n _ h).mp rfl⟩

/-! ## A change of one slot -/

/-- A node entry's state after a node transition (R63). -/
def State.nodeStateAfter (s : State) (n : Nat) (st : NodeState) (m : Nat) : NodeState :=
  if n = m ∧ 1 ≤ n ∧ n ≤ 62 then st else (s.node m).state

/-- All that the laws read of the slots other than i is as it was. -/
structure State.OtherSlots (s t : State) (i : Slot) : Prop where
  slot : ∀ j, j ≠ i → t.slot j = s.slot j
  state : ∀ j, j ≠ i → ∀ n st, st.slot? = some j → ((t.node n).state = st ↔ (s.node n).state = st)
  pending : ∀ j, j ≠ i → (j ∈ t.pendingOrder ↔ j ∈ s.pendingOrder)
  deferral : ∀ j, j ≠ i → (j ∈ t.deferralList ↔ j ∈ s.deferralList)
  conclusion : ∀ j, j ≠ i → (Item.conclusion j ∈ t.delivery ↔ Item.conclusion j ∈ s.delivery)

/-- A change of one slot, which meets its law afterwards, keeps the laws of the slots. -/
theorem State.SlotLaws.change (law : s.SlotLaws) {i : Slot} (others : s.OtherSlots t i) (new : t.SlotLaw i (t.slot i))
    (hpending : t.pendingOrder.Nodup) (hdeferral : t.deferralList.Nodup)
    (hconclusion : ∀ j, t.delivery.count (.conclusion j) ≤ 1) : t.SlotLaws := by
  refine ⟨fun j => ?_, hpending, hdeferral, hconclusion⟩
  by_cases hj : j = i
  · exact hj ▸ new
  · obtain ⟨sound, claims, pending, deferral, conclusion⟩ := law.slot j
    rw [others.slot j hj]
    exact ⟨sound, fun n st hst => (others.state j hj n st hst).trans (claims n st hst),
      (others.pending j hj).trans pending, (others.deferral j hj).trans deferral,
      (others.conclusion j hj).trans conclusion⟩

/-- A node transition from and to states that name no other slot is no change for the other slots. -/
theorem state_of_transition {i j : Slot} {n : Nat} {st : NodeState} (hj : j ≠ i)
    (hbefore : ∀ k, (s.node n).state.slot? = some k → k = i) (hafter : ∀ k, st.slot? = some k → k = i)
    (m : Nat) (x : NodeState) (hx : x.slot? = some j) : s.nodeStateAfter n st m = x ↔ (s.node m).state = x := by
  unfold State.nodeStateAfter
  split
  · next h =>
    obtain ⟨rfl, -⟩ := h
    constructor <;> rintro rfl
    · exact absurd (hafter j hx) hj
    · exact absurd (hbefore j hx) hj
  · rfl

/-- The laws of the slots depend on the slots, the node states that name a slot, and the three lists alone. -/
theorem State.SlotLaws.of_naming (law : s.SlotLaws) (hslots : t.slots = s.slots)
    (hstate : ∀ n st, st.slot? ≠ none → ((t.node n).state = st ↔ (s.node n).state = st))
    (hpending : t.pendingOrder = s.pendingOrder) (hdeferral : t.deferralList = s.deferralList)
    (hdelivery : ∀ i, t.delivery.count (.conclusion i) = s.delivery.count (.conclusion i)) : t.SlotLaws := by
  obtain ⟨slot, pendingOnce, deferralOnce, conclusionOnce⟩ := law
  refine ⟨fun i => ?_, hpending ▸ pendingOnce, hdeferral ▸ deferralOnce, fun i => hdelivery i ▸ conclusionOnce i⟩
  obtain ⟨sound, claims, pending, deferral, conclusion⟩ := slot i
  rw [State.slot_of_slots hslots]
  refine ⟨sound, fun n st hst => (hstate n st (by simp [hst])).trans (claims n st hst), ?_, ?_, ?_⟩
  · rw [hpending]; exact pending
  · rw [hdeferral]; exact deferral
  · rw [← List.count_pos_iff, hdelivery, List.count_pos_iff]; exact conclusion

theorem State.SlotLaws.of_fields (law : s.SlotLaws) (hslots : t.slots = s.slots)
    (hstate : ∀ n, (t.node n).state = (s.node n).state) (hpending : t.pendingOrder = s.pendingOrder)
    (hdeferral : t.deferralList = s.deferralList)
    (hdelivery : ∀ i, t.delivery.count (.conclusion i) = s.delivery.count (.conclusion i)) : t.SlotLaws :=
  law.of_naming hslots (fun n st _ => by rw [hstate]) hpending hdeferral hdelivery

end Sys2Proof.Machine

/-! The operations on an exchange keep the laws of the slots: an exchange opens, is issued, deferred, made ready, concluded and
released (chapter 4). -/

namespace Sys2Proof.Machine

-- One theorem at a time, as in the tests: the memory limit of the check leaves room for few threads.
set_option Elab.async false

variable {s t : State} {i : Slot} {e f : Exchange}

/-! ## How a collection and a node follow an exchange -/

/-- A collection is as it was but for slot i, which stands in it, once, exactly under p. -/
structure ListFollows (l l' : List Slot) (i : Slot) (p : Prop) : Prop where
  others : ∀ j, j ≠ i → (j ∈ l' ↔ j ∈ l)
  self : i ∈ l' ↔ p
  once : l'.Nodup

section
variable {l : List Slot}

theorem listFollows_removed (h : l.Nodup) (i : Slot) : ListFollows l (l.filter (· != i)) i False :=
  ⟨fun j hj => by simp [hj], by simp, h.filter _⟩

theorem listFollows_inserted (h : l.Nodup) (hi : i ∉ l) (before : Slot → Bool) :
    ListFollows l (insertBefore before i l) i True :=
  ⟨fun j hj => by simp [mem_insertBefore, hj], by simp [mem_insertBefore], (nodup_insertBefore before i l).mpr ⟨hi, h⟩⟩

theorem listFollows_appended (h : l.Nodup) (hi : i ∉ l) : ListFollows l (l ++ [i]) i True := by
  refine ⟨fun j hj => by simp [hj], by simp, List.nodup_append.mpr ⟨h, by simp, ?_⟩⟩
  simpa using fun j hj (hji : j = i) => hi (hji ▸ hj)

theorem listFollows_kept (h : l.Nodup) (i : Slot) : ListFollows l l i (i ∈ l) :=
  ⟨fun _ _ => Iff.rfl, Iff.rfl, h⟩

theorem ListFollows.of_iff {l' : List Slot} {p q : Prop} (h : ListFollows l l' i p) (hpq : p ↔ q) : ListFollows l l' i q :=
  ⟨h.others, h.self.trans hpq, h.once⟩

end

/-- The node states follow an exchange of slot i that becomes f: those that name another slot are as they were, and one that names
i is the one f claims (R63). -/
structure State.NodesFollow (s t : State) (i : Slot) (f : Exchange) : Prop where
  others : ∀ j, j ≠ i → ∀ n st, st.slot? = some j → ((t.node n).state = st ↔ (s.node n).state = st)
  self : ∀ n st, st.slot? = some i → ((t.node n).state = st ↔ f.node = n ∧ f.claim i = some st)

theorem State.SlotLaw.claims_iff {x : NodeState} (law : s.SlotLaw i (some e)) (n : Nat) (hx : x.slot? = some i) :
    (s.node n).state = x ↔ e.node = n ∧ e.claim i = some x := by
  rw [law.claims n x hx]
  simp

/-- Where no node changes, an exchange that keeps its claim is followed. -/
theorem nodesFollow_kept (law : s.SlotLaw i (some e)) (hstate : ∀ n, (t.node n).state = (s.node n).state)
    (hnode : f.node = e.node) (hclaim : f.claim i = e.claim i) : s.NodesFollow t i f :=
  ⟨fun j _ n st _ => by rw [hstate], fun n st hst => by rw [hstate, hnode, hclaim]; exact law.claims_iff n hst⟩

/-- A transition of the exchange's own node to the state it comes to claim follows it (R63). -/
theorem nodesFollow_transition (law : s.SlotLaw i (some e)) {st : NodeState}
    (hstate : ∀ n, (t.node n).state = s.nodeStateAfter e.node st n) (hrange : 1 ≤ e.node ∧ e.node ≤ 62)
    (hbefore : ∀ k, (s.node e.node).state.slot? = some k → k = i) (hafter : ∀ k, st.slot? = some k → k = i)
    (hnode : f.node = e.node) (hclaim : ∀ x : NodeState, x.slot? = some i → (st = x ↔ f.claim i = some x)) :
    s.NodesFollow t i f := by
  refine ⟨fun j hj n x hx => ?_, fun n x hx => ?_⟩
  · rw [hstate]
    exact state_of_transition hj hbefore hafter n x hx
  · rw [hstate, State.nodeStateAfter, hnode]
    split
    · next h => simp only [h.1, true_and]; exact hclaim x hx
    · next h =>
      have hn : e.node ≠ n := fun hn => h ⟨hn, hrange⟩
      simp only [hn, false_and, iff_false]
      exact fun hx' => hn ((law.claims_iff n hx).mp hx').1

theorem State.SlotLaws.at (law : s.SlotLaws) (hs : s.slot i = some e) : s.SlotLaw i (some e) := hs ▸ law.slot i

/-- The node that an exchange claims is a field node, and it stands in the state claimed (R63). -/
theorem State.SlotLaws.claim (law : s.SlotLaws) (hs : s.slot i = some e) {st : NodeState} (h : e.claim i = some st) :
    (1 ≤ e.node ∧ e.node ≤ 62) ∧ (s.node e.node).state = st ∧ st.slot? = some i := by
  have hst : st.slot? = some i := by
    unfold Exchange.claim at h
    split at h <;> (try split at h) <;> cases h <;> rfl
  have hstate := State.SlotLaw.node_state (law.at hs) h
  obtain ⟨hlow, hhigh, -⟩ := law.claimed (hstate ▸ hst)
  exact ⟨⟨hlow, hhigh⟩, hstate, hst⟩

/-- A transition of the node that the exchange claims. -/
theorem State.SlotLaws.nodesFollow (law : s.SlotLaws) (hs : s.slot i = some e) (hclaims : e.claim i ≠ none) {st : NodeState}
    (hstate : ∀ n, (t.node n).state = s.nodeStateAfter e.node st n) (hafter : ∀ k, st.slot? = some k → k = i)
    (hnode : f.node = e.node) (hclaim : ∀ x : NodeState, x.slot? = some i → (st = x ↔ f.claim i = some x)) :
    s.NodesFollow t i f := by
  obtain ⟨x, hx⟩ := Option.ne_none_iff_exists'.mp hclaims
  obtain ⟨hrange, hx, hslot⟩ := law.claim hs hx
  refine nodesFollow_transition (law.at hs) hstate hrange (fun k hk => ?_) hafter hnode hclaim
  rw [hx, hslot] at hk
  exact (Option.some.inj hk).symm

theorem state_setNodeState (s : State) (n : Nat) (st : NodeState) (m : Nat) :
    ((s.setNodeState n st).node m).state = s.nodeStateAfter n st m := by
  rw [State.node_setNodeState, State.nodeStateAfter]
  split <;> rfl

/-! ## A slot's exchange changes -/

/-- A slot whose exchange becomes f, the nodes and the collections following, keeps the laws while no conclusion item joins. -/
theorem State.SlotLaws.become (law : s.SlotLaws) (hsound : f.Sound) (hslot : ∀ j, t.slot j = if i = j then some f else s.slot j)
    (nodes : s.NodesFollow t i f) (pending : ListFollows s.pendingOrder t.pendingOrder i (f.state.isPending = true))
    (deferral : ListFollows s.deferralList t.deferralList i (f.state = .deferred)) (hdelivery : t.delivery = s.delivery)
    (hbefore : ∀ e, s.slot i = some e → e.state ≠ .concluded) (hafter : f.state ≠ .concluded) : t.SlotLaws := by
  have hold : Item.conclusion i ∉ s.delivery := fun h => by
    obtain ⟨e, he, hc⟩ := (law.slot i).conclusion.mp h
    exact hbefore e he hc
  refine law.change (i := i) ⟨fun j hj => by rw [hslot, if_neg (Ne.symm hj)], nodes.others, pending.others, deferral.others,
    fun j _ => by rw [hdelivery]⟩ ?_ pending.once deferral.once (hdelivery ▸ law.conclusionOnce)
  rw [hslot, if_pos rfl]
  exact ⟨fun e he => Option.some.inj he ▸ hsound, fun n st hst => by simpa using nodes.self n st hst,
    by simpa using pending.self, by simpa using deferral.self, by simpa [hdelivery, hold] using hafter⟩

/-- A slot whose exchange becomes a concluded f, its conclusion item joining the Delivery List, keeps the laws (R101). -/
theorem State.SlotLaws.concluded (law : s.SlotLaws) (hs : s.slot i = some e) (hopen : e.state ≠ .concluded)
    (hstate : f.state = .concluded) (hnode : f.node = e.node) (hslot : ∀ j, t.slot j = if i = j then some f else s.slot j)
    (nodes : s.NodesFollow t i f) (hpending : t.pendingOrder = s.pendingOrder.filter (· != i))
    (hdeferral : t.deferralList = s.deferralList.filter (· != i)) (hdelivery : t.delivery = s.delivery ++ [.conclusion i])
    (hdue : f.answerDue = none) : t.SlotLaws := by
  have hold : Item.conclusion i ∉ s.delivery := fun h => by
    obtain ⟨e', he, hc⟩ := (law.slot i).conclusion.mp h
    exact hopen (Option.some.inj (hs.symm.trans he) ▸ hc)
  have pending := hpending ▸ listFollows_removed law.pendingOnce i
  have deferral := hdeferral ▸ listFollows_removed law.deferralOnce i
  have hsound : f.Sound :=
    ⟨hnode ▸ ((law.slot i).sound e hs).node, fun _ => ⟨hdue, by simp [hstate], by simp [hstate]⟩⟩
  refine law.change (i := i) ⟨fun j hj => by rw [hslot, if_neg (Ne.symm hj)], nodes.others, pending.others, deferral.others,
    fun j hj => by simp [hdelivery, hj]⟩ ?_ pending.once deferral.once (fun j => ?_)
  · rw [hslot, if_pos rfl]
    exact ⟨fun e he => Option.some.inj he ▸ hsound, fun n st hst => by simpa using nodes.self n st hst,
      by simpa [hstate, ExchangeState.isPending] using pending.self, by simpa [hstate] using deferral.self,
      by simp [hdelivery, hstate]⟩
  · rw [hdelivery, List.count_append]
    by_cases hj : i = j
    · subst hj; simp [List.count_eq_zero.mpr hold]
    · simpa [hj] using law.conclusionOnce j

/-! ## The operations -/

/-- What a slot's law says of the collections, by the state of its exchange. -/
theorem State.SlotLaws.mem_pending (law : s.SlotLaws) (hs : s.slot i = some e) :
    i ∈ s.pendingOrder ↔ e.state.isPending = true := by
  rw [(law.slot i).pending, hs]
  simp

theorem State.SlotLaws.mem_deferral (law : s.SlotLaws) (hs : s.slot i = some e) : i ∈ s.deferralList ↔ e.state = .deferred := by
  rw [(law.slot i).deferral, hs]
  simp

/-- The conclusion procedure with the node effect of an exchange that claims its node (R64, R101). -/
theorem State.SlotLaws.conclude_claiming (law : s.SlotLaws) (hs : s.slot i = some e) (hclaims : e.claim i ≠ none)
    (hnode : f.node = e.node) (o : OutcomeCode) {st : NodeState} (hst : st.slot? = none) :
    ((s.conclude i f o).setNodeState e.node st).SlotLaws := by
  have hopen : e.state ≠ .concluded := fun h => hclaims (by simp [Exchange.claim, h])
  refine law.concluded (f := concludedRecord f o) hs hopen rfl hnode (s.slot_conclude i · f o) ?_ rfl rfl rfl rfl
  refine law.nodesFollow hs hclaims (fun n => state_setNodeState (s.conclude i f o) e.node st n)
    (by simp [hst]) hnode fun x hx => ?_
  have hne : st ≠ x := fun h => by simp [← h, hst] at hx
  simp [hne, Exchange.claim, concludedRecord]

/-- The conclusion procedure of an exchange that claims no node (R101). -/
theorem State.SlotLaws.conclude_unclaiming (law : s.SlotLaws) (hs : s.slot i = some e) (hclaims : e.claim i = none)
    (hopen : e.state ≠ .concluded) (hnode : f.node = e.node) (o : OutcomeCode) : (s.conclude i f o).SlotLaws :=
  law.concluded (f := concludedRecord f o) hs hopen rfl hnode (s.slot_conclude i · f o)
    (nodesFollow_kept (law.at hs) (fun _ => rfl) hnode (by rw [hclaims]; rfl)) rfl rfl rfl rfl

/-- An ISSUED exchange to a field node becomes DEFERRED, its node HELD (R60, R105, R108). -/
theorem State.SlotLaws.becomeDeferred (law : s.SlotLaws) (hs : s.slot i = some e) (hissued : e.state = .issued)
    (hfield : e.node ≠ 63) (hnode : f.node = e.node) (due : Mono) : (s.becomeDeferred i f due).SlotLaws := by
  have hclaims : e.claim i ≠ none := by simp [Exchange.claim, hissued, hfield]
  have hout : i ∉ s.deferralList := by simp [law.mem_deferral hs, hissued]
  have hwait : i ∉ s.pendingOrder := by simp [law.mem_pending hs, hissued, ExchangeState.isPending]
  refine law.become (f := { f with state := .deferred, answerDue := none, reissueDue := some due })
    ⟨hnode ▸ ((law.slot i).sound e hs).node, fun h => absurd (hnode ▸ h) hfield⟩ (s.slot_becomeDeferred i · f due) ?_
    ((listFollows_kept law.pendingOnce i).of_iff (by simp [hwait, ExchangeState.isPending]))
    ((listFollows_inserted law.deferralOnce hout _).of_iff (by simp)) rfl
    (fun e' he => by rw [hs] at he; cases he; simp [hissued]) (by simp)
  refine law.nodesFollow (st := .held i) hs hclaims (fun n => ?_) (by simp [NodeState.slot?]) hnode (by simp [Exchange.claim])
  rw [← hnode]
  exact state_setNodeState _ _ _ n

/-- A DEFERRED exchange becomes READY, its node HELD as before (R59, R107). -/
theorem State.SlotLaws.becomeReady (law : s.SlotLaws) (hs : s.slot i = some e) (hdeferred : e.state = .deferred) :
    (s.becomeReady i e).SlotLaws := by
  have hwait : i ∉ s.pendingOrder := by simp [law.mem_pending hs, hdeferred, ExchangeState.isPending]
  have hsound := (law.slot i).sound e hs
  refine law.become (f := { e with state := .ready, answerDue := none, reissueDue := none })
    ⟨hsound.node, fun h => absurd hdeferred (hsound.broadcast h).2.1⟩ (s.slot_becomeReady i · e) ?_
    ((listFollows_inserted law.pendingOnce hwait _).of_iff (by simp [ExchangeState.isPending]))
    ((listFollows_removed law.deferralOnce i).of_iff (by simp)) rfl
    (fun e' he => by rw [hs] at he; cases he; simp [hdeferred]) (by simp)
  exact nodesFollow_kept (law.at hs) (fun _ => rfl) rfl (by simp [Exchange.claim, hdeferred])

/-- An ISSUED exchange to a field node becomes READY at the loss of the field line, its node HELD (R122). -/
theorem State.SlotLaws.becomeReady_held (law : s.SlotLaws) (hs : s.slot i = some e) (hissued : e.state = .issued)
    (hfield : e.node ≠ 63) (hnode : f.node = e.node) : ((s.becomeReady i f).setNodeState e.node (.held i)).SlotLaws := by
  have hclaims : e.claim i ≠ none := by simp [Exchange.claim, hissued, hfield]
  have hwait : i ∉ s.pendingOrder := by simp [law.mem_pending hs, hissued, ExchangeState.isPending]
  refine law.become (f := { f with state := .ready, answerDue := none, reissueDue := none })
    ⟨hnode ▸ ((law.slot i).sound e hs).node, fun h => absurd (hnode ▸ h) hfield⟩ (s.slot_becomeReady i · f) ?_
    ((listFollows_inserted law.pendingOnce hwait _).of_iff (by simp [ExchangeState.isPending]))
    ((listFollows_removed law.deferralOnce i).of_iff (by simp)) rfl
    (fun e' he => by rw [hs] at he; cases he; simp [hissued]) (by simp)
  exact law.nodesFollow (st := .held i) hs hclaims (state_setNodeState (s.becomeReady i f) _ _) (by simp [NodeState.slot?])
    hnode (by simp [Exchange.claim])

/-- An exchange of the pending order is ISSUED: a field node, IDLE or HELD by it, becomes OCCUPIED (R91, R96). -/
theorem State.SlotLaws.issued (law : s.SlotLaws) (hs : s.slot i = some e) (hpending : e.state.isPending = true)
    (hslot : ∀ j, t.slot j = (s.selectExchange i e).slot j) (hpendingOrder : t.pendingOrder = s.pendingOrder.filter (· != i))
    (hdeferral : t.deferralList = s.deferralList) (hdelivery : t.delivery = s.delivery)
    (nodes : s.NodesFollow t i { e with state := .issued, answerDue := none, issueCount := e.issueCount + 1 }) : t.SlotLaws := by
  have hout : i ∉ s.deferralList := by
    rw [law.mem_deferral hs]; intro h; simp [h, ExchangeState.isPending] at hpending
  refine law.become (f := { e with state := .issued, answerDue := none, issueCount := e.issueCount + 1 })
    ⟨((law.slot i).sound e hs).node, fun _ => ⟨rfl, by simp, by simp⟩⟩ (fun j => (hslot j).trans (s.slot_selectExchange i j e)) nodes
    (by rw [hpendingOrder]; exact (listFollows_removed law.pendingOnce i).of_iff (by simp [ExchangeState.isPending]))
    (by rw [hdeferral]; exact (listFollows_kept law.deferralOnce i).of_iff (by simp [hout])) hdelivery
    (fun e' he => by rw [hs] at he; cases he; intro h; simp [h, ExchangeState.isPending] at hpending) (by simp)

/-- An exchange opens in a FREE slot, WAITING and last in the pending order (R58, R59, R76). -/
theorem State.SlotLaws.openExchange (law : s.SlotLaws) (hfree : s.slot i = none) (o : Origin) {n : Nat}
    (hn : 1 ≤ n ∧ n ≤ 63) (fn : Byte) (d : List Byte) (p : Policy) : (s.openExchange i o n fn d p).SlotLaws := by
  obtain ⟨-, claims, pending, deferral, -⟩ := hfree ▸ law.slot i
  have hwait : i ∉ s.pendingOrder := by simp [pending]
  have hout : i ∉ s.deferralList := by simp [deferral]
  refine law.become (f := admittedRecord s o n fn d p) ⟨hn, fun _ => ⟨rfl, by simp [admittedRecord], by simp [admittedRecord]⟩⟩
    (s.slot_openExchange i · o n fn d p) ⟨fun _ _ _ _ _ => Iff.rfl, fun m st hst => ?_⟩
    ((listFollows_appended law.pendingOnce hwait).of_iff (by simp [admittedRecord, ExchangeState.isPending]))
    ((listFollows_kept law.deferralOnce i).of_iff (by simp [admittedRecord, hout])) rfl (by simp [hfree])
    (by simp [admittedRecord])
  refine (claims m st hst).trans ?_
  simp [Exchange.claim, admittedRecord]

/-- A record that changes in fields the laws do not read, but for a broadcast's answer-due, keeps the laws. -/
theorem State.SlotLaws.setSlot (law : s.SlotLaws) (hs : s.slot i = some e) (hstate : f.state = e.state)
    (hnode : f.node = e.node) (hopen : e.state ≠ .concluded) (hdue : e.node = 63 → f.answerDue = none) :
    (s.setSlot i (some f)).SlotLaws := by
  have hsound := (law.slot i).sound e hs
  refine law.become ⟨hnode ▸ hsound.node, fun h => ⟨hdue (hnode ▸ h), ?_⟩⟩ (s.slot_setSlot i · (some f))
    (nodesFollow_kept (law.at hs) (fun _ => rfl) hnode (by simp only [Exchange.claim, hstate, hnode]))
    ((listFollows_kept law.pendingOnce i).of_iff (by rw [law.mem_pending hs, hstate]))
    ((listFollows_kept law.deferralOnce i).of_iff (by rw [law.mem_deferral hs, hstate])) rfl
    (fun e' he => by rw [hs] at he; cases he; exact hopen) (hstate ▸ hopen)
  rw [hstate]
  exact (hsound.broadcast (hnode ▸ h)).2

/-- The slot of the first item, an OUTCOME sent, is released (R61, R176). -/
theorem State.SlotLaws.released (law : s.SlotLaws) {rest : List Item} (hfirst : s.delivery = .conclusion i :: rest)
    (hslot : ∀ j, t.slot j = if i = j then none else s.slot j) (hstate : ∀ n, (t.node n).state = (s.node n).state)
    (hpending : t.pendingOrder = s.pendingOrder) (hdeferral : t.deferralList = s.deferralList)
    (hdelivery : t.delivery = rest) : t.SlotLaws := by
  obtain ⟨e, hs, hconcluded⟩ := (law.slot i).conclusion.mp (hfirst ▸ List.mem_cons_self)
  have hgone : Item.conclusion i ∉ rest := by
    have := law.conclusionOnce i
    rw [hfirst, List.count_cons_self] at this
    exact List.count_eq_zero.mp (by omega)
  refine law.change (i := i) ⟨fun j hj => by rw [hslot, if_neg (Ne.symm hj)], fun j _ n st _ => by rw [hstate],
    fun j _ => by rw [hpending], fun j _ => by rw [hdeferral], fun j hj => by simp [hdelivery, hfirst, hj]⟩ ?_
    (hpending ▸ law.pendingOnce) (hdeferral ▸ law.deferralOnce) (fun j => ?_)
  · rw [hslot, if_pos rfl]
    refine ⟨fun _ h => (nomatch h), fun n st hst => ?_, ?_, ?_, ?_⟩
    · rw [hstate, State.SlotLaw.claims_iff (law.at hs) n hst]
      simp [Exchange.claim, hconcluded]
    · rw [hpending, law.mem_pending hs]
      simp [hconcluded, ExchangeState.isPending]
    · rw [hdeferral, law.mem_deferral hs]
      simp [hconcluded]
    · simp [hdelivery, hgone]
  · rw [hdelivery]
    exact (List.count_le_count_cons (a := .conclusion j) (b := .conclusion i) (l := rest)).trans
      (hfirst ▸ law.conclusionOnce j)

/-- A node that no exchange claims may become any state that names none (R64). -/
theorem State.SlotLaws.setNodeState (law : s.SlotLaws) {n : Nat} {st : NodeState} (hbefore : (s.node n).state.slot? = none)
    (hafter : st.slot? = none) : (s.setNodeState n st).SlotLaws := by
  refine law.of_naming rfl (fun m x hx => ?_) rfl rfl fun _ => rfl
  rw [state_setNodeState, State.nodeStateAfter]
  split
  · next h =>
    obtain ⟨rfl, -⟩ := h
    constructor <;> rintro rfl
    · exact absurd hafter hx
    · exact absurd hbefore hx
  · rfl

end Sys2Proof.Machine

/-! Every command keeps the laws of exchanges, and so every step does. -/

namespace Sys2Proof.Machine

-- One theorem at a time, as in the tests: the memory limit of the check leaves room for few threads.
set_option Elab.async false

variable {s t : State} {i : Slot} {e : Exchange}

/-! ## Silences, ends and losses -/

theorem claim_of_issued (hissued : e.state = .issued) (hfield : e.node ≠ 63) : e.claim i = some (.occupied i) := by
  simp [Exchange.claim, hissued, hfield]

theorem State.SlotLaws.takeSilence (law : s.SlotLaws) (hs : s.slot i = some e) (hissued : e.state = .issued)
    (hfield : e.node ≠ 63) : (s.takeSilence i e).SlotLaws := by
  rcases s.takeSilence_cases i e with ⟨-, h⟩ | ⟨-, h⟩ <;> rw [h]
  · exact law.conclude_claiming (f := { e with silentCount := e.silentCount + 1 }) hs (by simp [claim_of_issued hissued hfield])
      rfl _ rfl
  · exact law.becomeDeferred (f := { e with silentCount := e.silentCount + 1 }) hs hissued hfield rfl _

theorem State.SlotLaws.endExchange (law : s.SlotLaws) (hs : s.slot i = some e) (o : OutcomeCode) :
    (s.endExchange i e o).SlotLaws := by
  rcases s.endExchange_cases i e o with ⟨-, h⟩ | ⟨hw, h⟩ | ⟨⟨hissued, hfield⟩, h⟩ | ⟨hheld, h⟩ <;> rw [h]
  · exact law
  · exact law.conclude_unclaiming hs (by simp [Exchange.claim, hw]) (by simp [hw]) rfl o
  · exact law.conclude_claiming hs (by simp [claim_of_issued hissued hfield]) rfl o rfl
  · have hclaims : e.claim i ≠ none := by rcases hheld with hst | hst <;> simp [Exchange.claim, hst]
    exact law.conclude_claiming hs hclaims rfl o rfl

theorem State.SlotLaws.cancelSlot (law : s.SlotLaws) (i : Slot) : (s.cancelSlot i).SlotLaws := by
  unfold State.cancelSlot
  split
  · next e hs => exact law.endExchange hs _
  · exact law

theorem State.SlotLaws.loseIssue (law : s.SlotLaws) (i : Slot) : (s.loseIssue i).SlotLaws := by
  rcases s.loseIssue_cases i with ⟨-, h⟩ | ⟨e, hs, hissued, ⟨hb, h⟩ | ⟨hfield, -, h⟩ | ⟨hfield, -, h⟩⟩ <;> rw [h]
  · exact law
  · exact law.conclude_unclaiming hs (by simp [Exchange.claim, hissued, hb]) (by simp [hissued]) rfl _
  · exact law.conclude_claiming (f := { e with silentCount := e.silentCount + 1 }) hs
      (by simp [claim_of_issued hissued hfield]) rfl _ rfl
  · exact law.becomeReady_held (f := { e with silentCount := e.silentCount + 1 }) hs hissued hfield rfl

/-- What every round keeps, a fold keeps. -/
theorem foldl_keeps {α : Type} {Law : State → Prop} {f : State → α → State} (h : ∀ s a, Law s → Law (f s a)) (l : List α)
    (hs : Law s) : Law (l.foldl f s) := by
  induction l generalizing s with
  | nil => exact hs
  | cons a l ih => exact ih (h s a hs)

theorem state_endQuiet (x : NodeEntry) {st : NodeState} (hst : st.slot? ≠ none) : (endQuiet x).state = st ↔ x.state = st := by
  unfold endQuiet
  split
  · next q hq =>
    rw [hq]
    constructor <;> rintro rfl <;> exact absurd rfl hst
  · rfl

/-- Ending the QUIET of every node changes no node state that names a slot (R64). -/
theorem State.SlotLaws.endQuiets (law : s.SlotLaws) : State.SlotLaws { s with nodes := s.nodes.map endQuiet } := by
  refine law.of_naming rfl (fun n st hst => ?_) rfl rfl fun _ => rfl
  rw [State.node_map (s := s) (g := endQuiet) rfl]
  split
  · exact state_endQuiet _ hst
  · next hn => rw [s.node_outside hn]

theorem State.SlotLaws.loseField (law : s.SlotLaws) (arrived : Bool) : (s.loseField arrived).SlotLaws := by
  have lost : State.SlotLaws { s.endFieldReceive arrived with inFlight := none, receipts := [] } :=
    law.of_fields (by simp) (fun n => by rw [State.node_of_nodes (s := s) (by simp)]) (by simp) (by simp) (by simp)
  have folded := foldl_keeps (fun u i (h : u.SlotLaws) => h.loseIssue i)
    (State.slotsByAge { s.endFieldReceive arrived with inFlight := none, receipts := [] } fun e => e.state == .issued) lost
  exact folded.endQuiets.of_fields rfl (fun _ => rfl) rfl rfl fun _ => rfl

/-! ## Answers, defers and reports -/

theorem state_updateNode {f : NodeEntry → NodeEntry} (hf : ∀ x, (f x).state = x.state) (s : State) (n m : Nat) :
    ((s.updateNode n f).node m).state = (s.node m).state := by
  rw [State.node_updateNode]
  split
  · next h => rw [hf, h.1]
  · rfl

/-- A matching frame belongs to the ISSUED exchange that occupies its node (R99). -/
theorem matchFrame_matching {n : Nat} {tag : Byte} (h : s.matchFrame n tag = .matching i e) :
    (s.node n).state = .occupied i ∧ s.slot i = some e ∧ e.state = .issued := by
  unfold State.matchFrame at h
  split at h
  · next j hj =>
    split at h
    · next f hf =>
      split at h
      · next hc =>
        cases h
        simp only [Bool.and_eq_true, beq_iff_eq] at hc
        exact ⟨hj, hf, hc.1.1⟩
      · cases h
    · cases h
  · split at h <;> cases h
  · cases h
  · cases h

/-- A late frame finds its node QUIET (R97). -/
theorem matchFrame_late {n : Nat} {tag : Byte} (h : s.matchFrame n tag = .late) : ∃ q, (s.node n).state = .quiet q := by
  unfold State.matchFrame at h
  split at h
  · split at h <;> (try split at h) <;> cases h
  · exact ⟨_, ‹_›⟩
  · cases h
  · cases h

/-- The exchange that occupies a node is ISSUED to it, and it is a field node (R63). -/
theorem State.SlotLaws.occupied (law : s.SlotLaws) {n : Nat} (h : (s.node n).state = .occupied i) (hs : s.slot i = some e) :
    e.node = n ∧ e.state = .issued ∧ e.node ≠ 63 := by
  obtain ⟨-, -, f, hf, hn, hclaim⟩ := law.claimed (n := n) (i := i) (by simp [h, NodeState.slot?])
  obtain rfl := Option.some.inj (hs.symm.trans hf)
  rw [h, claim_eq_occupied] at hclaim
  exact ⟨hn, hclaim.2.2, hclaim.2.1⟩

theorem State.SlotLaws.takeAnswer (law : s.SlotLaws) (hs : s.slot i = some e) (hissued : e.state = .issued)
    (hfield : e.node ≠ 63) (payload : List Byte) : (s.takeAnswer i e payload).SlotLaws := by
  have noted : (s.noteLatency e.node (answerLatency s e)).SlotLaws := by
    refine law.of_fields rfl (fun n => ?_) rfl rfl fun _ => rfl
    refine state_updateNode ?_ s e.node n
    exact fun _ => rfl
  have hs' : (s.noteLatency e.node (answerLatency s e)).slot i = some e := hs
  unfold State.takeAnswer
  split
  · next o _ =>
    exact noted.conclude_claiming (f := answeredRecord s e payload o) hs' (by simp [claim_of_issued hissued hfield]) rfl o rfl
  · exact noted.takeSilence hs' hissued hfield

theorem State.SlotLaws.takeDefer (law : s.SlotLaws) (hs : s.slot i = some e) (hissued : e.state = .issued)
    (hfield : e.node ≠ 63) (hint : Option Nat) : (s.takeDefer i e hint).SlotLaws := by
  unfold State.takeDefer
  split
  · exact law.conclude_claiming (f := { e with deferCount := e.deferCount + 1 }) hs (by simp [claim_of_issued hissued hfield])
      rfl _ rfl
  · exact law.becomeDeferred (f := { e with deferCount := e.deferCount + 1 }) hs hissued hfield rfl _

theorem State.SlotLaws.takeLate (law : s.SlotLaws) {n : Nat} {tag : Byte} (h : s.matchFrame n tag = .late) :
    (s.takeLate n).SlotLaws := by
  obtain ⟨q, hq⟩ := matchFrame_late h
  have late : (s.setNodeState n .idle).SlotLaws := law.setNodeState (by simp [hq, NodeState.slot?]) rfl
  exact late.of_fields rfl (fun _ => rfl) rfl rfl fun _ => rfl

theorem State.SlotLaws.tally (law : s.SlotLaws) (c : Counter) : (s.tally c).SlotLaws :=
  law.of_fields rfl (fun _ => rfl) rfl rfl fun _ => rfl

theorem State.SlotLaws.answerArrives (law : s.SlotLaws) (f : Frame) : (s.answerArrives f).SlotLaws := by
  unfold State.answerArrives
  split
  · next i e hm =>
    obtain ⟨hn, hs, hissued⟩ := matchFrame_matching hm
    exact law.takeAnswer hs hissued (law.occupied hn hs).2.2 _
  · exact law.tally _
  · exact law.takeLate ‹_›

theorem State.SlotLaws.deferArrives (law : s.SlotLaws) (f : Frame) : (s.deferArrives f).SlotLaws := by
  unfold State.deferArrives
  split
  · next i e hm =>
    obtain ⟨hn, hs, hissued⟩ := matchFrame_matching hm
    exact law.takeDefer hs hissued (law.occupied hn hs).2.2 _
  · exact law.tally _
  · exact law.takeLate ‹_›

/-- A report's arrival changes no exchange, no node state and no conclusion item. -/
theorem State.SlotLaws.reportArrives (law : s.SlotLaws) (f : Frame) : (s.reportArrives f).SlotLaws := by
  have owes {u : State} (r : Receipt) (h : u.SlotLaws) : (u.oweReceipt r).SlotLaws :=
    h.of_fields (by simp) (fun n => by rw [State.node_of_nodes (s := u) (by simp)]) (by simp) (by simp) (by simp)
  unfold State.reportArrives
  split
  · exact owes _ (law.tally _)
  · split
    · split
      · refine owes _ (law.of_fields rfl (fun n => ?_) rfl rfl (by simp))
        refine state_updateNode ?_ _ _ n
        exact fun _ => rfl
      · refine owes _ (law.of_fields rfl (fun n => ?_) rfl rfl fun _ => rfl)
        refine state_updateNode ?_ _ _ n
        exact fun _ => rfl
    · exact owes _ (law.of_fields rfl (fun _ => rfl) rfl rfl fun _ => rfl)

theorem State.SlotLaws.arrive (law : s.SlotLaws) (line : Line) (bytes : List Byte) : (s.arrive line bytes).SlotLaws := by
  have ended (c : Counter) : ((s.endReceive line).tally c).SlotLaws :=
    law.of_fields (by simp) (fun n => by rw [State.node_of_nodes (s := s) (by simp)]) (by simp) (by simp) (by simp)
  unfold State.arrive
  split
  · next f _ =>
    unfold State.handOn
    cases f.kind with
    | request | directive =>
      exact (ended (goodCounter line)).of_fields (by simp)
        (fun n => by rw [State.node_of_nodes (s := (s.endReceive line).tally (goodCounter line)) (by simp)])
        (by simp) (by simp) (by simp)
    | answer => exact (ended _).answerArrives f
    | defer => exact (ended _).deferArrives f
    | report => exact (ended _).reportArrives f
    | _ => exact ended _
  · exact ended _
  · exact ended _

/-! ## Selections and completions -/

/-- The exchange that a selection starts is eligible, and stands in the pending order (R89, R90). -/
theorem fieldStart_exchange (h : s.fieldStart = some (.exchange i)) :
    i ∈ s.pendingOrder ∧ ∃ e, s.slot i = some e ∧ s.eligible e = true := by
  have hold (b : Bool) (j : Slot) (hj : s.oldestEligible b = some j) :
      j ∈ s.pendingOrder ∧ ∃ e, s.slot j = some e ∧ s.eligible e = true := by
    refine ⟨List.mem_of_find?_eq_some hj, ?_⟩
    have := List.find?_some hj
    cases hs : s.slot j with
    | none => simp [hs] at this
    | some e => exact ⟨e, rfl, by simp [hs] at this; exact this.2⟩
  have hchoice := fieldStart_choice h
  unfold State.fieldChoice at hchoice
  split at hchoice
  · split at hchoice
    · cases hchoice
    · obtain ⟨j, hj, hji⟩ := Option.map_eq_some_iff.mp hchoice
      cases hji
      unfold State.selected at hj
      split at hj
      · split at hj <;> cases hj <;> exact hold _ _ ‹_›
      · cases hj; exact hold _ _ ‹_›
      · cases hj; exact hold _ _ ‹_›
      · cases hj
  · cases hchoice

theorem eligible_pending (h : s.eligible e = true) : e.state.isPending = true := by
  unfold State.eligible at h
  cases hst : e.state <;> simp [hst, ExchangeState.isPending] at h ⊢

theorem eligible_waiting_node (hw : e.state = .waiting) (hfield : e.node ≠ 63) (h : s.eligible e = true) :
    (s.node e.node).state = .idle := by
  simp only [State.eligible, hw, Config.broadcastNode, hfield, if_false, Bool.and_eq_true, beq_iff_eq] at h
  exact h.1

theorem State.SlotLaws.selectToNode (law : s.SlotLaws) (hs : s.slot i = some e) (h : s.eligible e = true)
    (hfield : e.node ≠ 63) : (s.selectToNode i e).SlotLaws := by
  have hpending := eligible_pending h
  have hsound := (law.slot i).sound e hs
  refine law.issued hs hpending (fun _ => rfl) rfl rfl rfl ?_
  refine nodesFollow_transition (st := .occupied i) (law.at hs) (fun n => ?_) ⟨hsound.node.1, by have := hsound.node.2; omega⟩
    (fun k hk => ?_) (by simp [NodeState.slot?]) rfl (by simp [claim_of_issued (e := { e with state := .issued, answerDue := none, issueCount := e.issueCount + 1 }) rfl hfield])
  · rw [State.nodeStateAfter]
    refine (congrArg NodeEntry.state (State.node_updateNode (s.selectExchange i e) e.node n _)).trans ?_
    split <;> rfl
  · rcases isPending_iff.mp hpending with hw | hr
    · simp [eligible_waiting_node hw hfield h, NodeState.slot?] at hk
    · have hclaim : e.claim i = some (.held i) := by simp [Exchange.claim, hr]
      rw [State.SlotLaw.node_state (law.at hs) hclaim] at hk
      exact (Option.some.inj hk).symm

theorem State.SlotLaws.selectBroadcast (law : s.SlotLaws) (hs : s.slot i = some e) (h : s.eligible e = true)
    (hbroadcast : e.node = 63) : (s.selectBroadcast i e).SlotLaws := by
  have hpending := eligible_pending h
  have hsound := (law.slot i).sound e hs
  refine law.issued hs hpending (fun _ => rfl) rfl rfl rfl (nodesFollow_kept (law.at hs) (fun _ => rfl) rfl ?_)
  rcases isPending_iff.mp hpending with hw | hr
  · simp [Exchange.claim, hw, hbroadcast]
  · exact absurd hr (hsound.broadcast hbroadcast).2.2

theorem State.SlotLaws.completeIssue (law : s.SlotLaws) (n window : Nat) : (s.completeIssue n window).SlotLaws := by
  unfold State.completeIssue
  split
  · next i hn =>
    split
    · next e hs =>
      obtain ⟨-, hissued, hfield⟩ := law.occupied hn hs
      exact law.setSlot hs rfl rfl (by simp [hissued]) fun h => absurd h hfield
    · exact law
  · next hn => exact law.setNodeState (by simp [hn, NodeState.slot?]) rfl
  all_goals exact law

theorem State.slot_releaseSlot (s : State) (i j : Slot) : (s.releaseSlot i).slot j = if i = j then none else s.slot j := by
  unfold State.releaseSlot
  split
  · next e he =>
    rw [State.slot_of_slots (s := s.setSlot i none) (by simp), State.slot_setSlot]
  · next he => split <;> simp_all

/-! ## The intake and the schedule entries -/

theorem State.IntakeLaw.of_subset (law : s.IntakeLaw) (h : ∀ f ∈ t.intake, f ∈ s.intake) : t.IntakeLaw :=
  fun f hf => law f (h f hf)

theorem State.IntakeLaw.of_intake (law : s.IntakeLaw) (h : t.intake = s.intake) : t.IntakeLaw :=
  law.of_subset fun _ hf => h ▸ hf

theorem Accepted.node_le {line : Line} {f : Frame} (h : Accepted line f) : f.node.toNat ≤ 63 := by
  rcases h with ⟨-, -, hn, -⟩ | ⟨-, -, -, hn, -⟩ <;> omega

theorem State.IntakeLaw.offer (law : s.IntakeLaw) {f : Frame} (hf : f.node.toNat ≤ 63) : (s.offer f).IntakeLaw := by
  unfold State.offer
  split
  · intro g hg
    rcases List.mem_append.mp hg with hg | hg
    · exact law g hg
    · rw [List.mem_singleton.mp hg]; exact hf
  · exact law.of_intake rfl

theorem State.IntakeLaw.arrive (law : s.IntakeLaw) (line : Line) (bytes : List Byte) : (s.arrive line bytes).IntakeLaw := by
  have ended (c : Counter) : ((s.endReceive line).tally c).IntakeLaw := law.of_intake (by simp)
  unfold State.arrive
  split
  · next _ hgood =>
    have hf := (eq_frameBytes_of_good hgood).2.node_le
    unfold State.handOn
    split
    · exact (ended _).offer hf
    · exact (ended _).offer hf
    all_goals exact (ended (goodCounter line)).of_intake (by simp)
  · exact ended _
  · exact ended _

theorem State.EntriesLaw.of_schedule (law : s.EntriesLaw) (h : t.schedule = s.schedule) : t.EntriesLaw :=
  fun k => State.entry_of_schedule h k ▸ law k

theorem State.EntriesLaw.updateEntry (law : s.EntriesLaw) {f : ScheduleEntry → ScheduleEntry}
    (hf : ∀ x, x.InRange → (f x).InRange) (k : EntryIndex) : (s.updateEntry k f).EntriesLaw := by
  intro j
  rw [State.entry_updateEntry]
  split
  · exact hf _ (law k)
  · exact law j

theorem State.entry_map {g : ScheduleEntry → ScheduleEntry} (h : t.schedule = s.schedule.map g) (k : EntryIndex) :
    t.entry k = g (s.entry k) := by
  simp [State.entry, h]

theorem State.EntriesLaw.map (law : s.EntriesLaw) {g : ScheduleEntry → ScheduleEntry}
    (hg : ∀ x, x.InRange → (g x).InRange) (h : t.schedule = s.schedule.map g) : t.EntriesLaw :=
  fun k => State.entry_map h k ▸ hg _ (law k)

/-- An entry whose live fields and staged copy come from those of an entry in range is in range. -/
theorem ScheduleEntry.InRange.of_fields {x y : ScheduleEntry} (h : x.InRange)
    (hlive : y.live = x.live ∨ y.live = x.staged ∨ y.live = none)
    (hstaged : y.staged = x.staged ∨ y.staged = none) : y.InRange := by
  intro fields hf
  apply h fields
  grind

theorem inRange_disarmed {x : ScheduleEntry} (h : x.InRange) : (disarmed x).InRange := by
  refine h.of_fields ?_ ?_ <;> unfold disarmed <;> split <;> cases x.staged <;> simp

theorem inRange_admittedEntry {x : ScheduleEntry} (h : x.InRange) (t : SegmentTime) (live : ScheduleFields) (i : Slot) :
    (markFired t (admittedEntry live i x)).InRange := by
  refine h.of_fields ?_ ?_ <;> unfold markFired admittedEntry <;> split <;> cases x.staged <;> simp

theorem inRange_cycleEntry {x : ScheduleEntry} (h : x.InRange) (ending : CycleCount) (length : Nat) :
    (cycleEntry ending length x).InRange := by
  have hcut : (cutEntry ending x).live = x.live ∧ (cutEntry ending x).staged = x.staged := by
    unfold cutEntry; split <;> simp
  have hpromote : (promoteEntry (cutEntry ending x)).InRange := by
    refine h.of_fields ?_ ?_ <;> unfold promoteEntry <;> split <;> simp_all
  refine hpromote.of_fields ?_ ?_ <;> unfold cycleEntry disarmUnfit <;> split <;> simp

/-! ## Firings -/

/-- The laws of the slots, of the Head Intake and of the Cycle Schedule, which a firing needs together. -/
structure State.TrafficLaws (s : State) : Prop where
  slots : s.SlotLaws
  intake : s.IntakeLaw
  entries : s.EntriesLaw

theorem trafficLaws_iff : s.TrafficLaws ↔ s.ExchangeLaw ∧ s.ConclusionLaw := by
  rw [exchangeLaws_iff]
  exact ⟨fun h => ⟨h.slots, h.intake, h.entries⟩, fun h => ⟨h.1, h.2.1, h.2.2⟩⟩

theorem scheduleFieldsValid_node {fields : ScheduleFields} (h : scheduleFieldsValid fields = true) :
    1 ≤ fields.node ∧ fields.node ≤ 62 := by
  simp only [scheduleFieldsValid, Bool.and_eq_true, decide_eq_true_eq] at h
  exact h.1.1

theorem firesAt_live {k : EntryIndex} {phase : Nat} {live : ScheduleFields} (h : s.firesAt k phase = some live) :
    (s.entry k).live = some live := by
  simp only [State.firesAt] at h
  split at h
  · next hl =>
    split at h
    · cases h; exact hl
    · cases h
  · cases h

theorem State.TrafficLaws.fire (law : s.TrafficLaws) {k : EntryIndex} {live : ScheduleFields}
    (hvalid : scheduleFieldsValid live = true) : (s.fire k live).TrafficLaws := by
  rcases s.fire_cases k live with ⟨g, hg, h⟩ | ⟨p, i, -, -, hfree, h⟩ <;> rw [h]
  · refine ⟨law.slots.of_fields rfl (fun _ => rfl) rfl rfl fun _ => rfl, law.intake.of_intake rfl, ?_⟩
    refine State.EntriesLaw.of_schedule (s := s.updateEntry k g) (law.entries.updateEntry (fun x hx => ?_) k) rfl
    obtain ⟨-, hlive, hstaged, -⟩ := hg x
    exact hx.of_fields (.inl hlive) (.inl hstaged)
  · obtain ⟨hlow, hhigh⟩ := scheduleFieldsValid_node hvalid
    have marked : (s.updateEntry k fun e => markFired s.segmentTime (admittedEntry live i e)).SlotLaws :=
      law.slots.of_fields rfl (fun _ => rfl) rfl rfl fun _ => rfl
    refine ⟨marked.openExchange (s.lowestFree_spec i hfree) _ ⟨hlow, by omega⟩ _ _ _, law.intake.of_intake rfl, ?_⟩
    refine State.EntriesLaw.of_schedule (s := s.updateEntry k fun e => markFired s.segmentTime (admittedEntry live i e))
      (law.entries.updateEntry ?_ k) rfl
    exact fun x hx => inRange_admittedEntry hx _ _ _

theorem State.TrafficLaws.fireAt (law : s.TrafficLaws) (phase : Nat) (k : EntryIndex) : (s.fireAt phase k).TrafficLaws := by
  unfold State.fireAt
  split
  · next live hl => exact law.fire (law.entries k live (.inl (firesAt_live hl)))
  · exact law

theorem State.TrafficLaws.startCycle (law : s.TrafficLaws) (kind : StartKind) : (s.startCycle kind).TrafficLaws := by
  unfold State.startCycle State.scheduleWork
  refine foldl_keeps (Law := State.TrafficLaws) (fun u k hu => hu.fireAt 0 k) _ ⟨?_, ?_, ?_⟩
  · exact law.slots.of_fields (by simp) (fun n => by rw [State.node_of_nodes (s := s) (by simp)]) (by simp) (by simp) (by simp)
  · exact law.intake.of_intake (by simp)
  · exact law.entries.map (g := cycleEntry s.cycle (s.newCycle kind).params.cycleLength)
      (fun x hx => inRange_cycleEntry hx _ _) (by simp)

theorem State.TrafficLaws.takeEdge (law : s.TrafficLaws) : s.takeEdge.TrafficLaws := by
  have kept {u : State} (hslots : u.slots = s.slots) (hnodes : u.nodes = s.nodes) (hp : u.pendingOrder = s.pendingOrder)
      (hd : u.deferralList = s.deferralList) (hdel : u.delivery = s.delivery) (hi : u.intake = s.intake)
      (hsch : u.schedule = s.schedule) : u.TrafficLaws :=
    ⟨law.slots.of_fields hslots (fun n => by rw [State.node_of_nodes hnodes]) hp hd (by simp [hdel]), law.intake.of_intake hi,
      law.entries.of_schedule hsch⟩
  have ended : s.takeLevel.captureEdge.endMisses.TrafficLaws := kept rfl rfl rfl rfl rfl rfl rfl
  unfold State.takeEdge State.edgeEffect
  split
  · exact kept rfl rfl rfl rfl rfl rfl rfl
  · exact ended.startCycle .sync
  · exact ended.startCycle .sync
  · exact kept rfl rfl rfl rfl rfl rfl rfl

end Sys2Proof.Machine

/-! Every step keeps the laws of exchanges, nodes, the collections and conclusion items (O7). -/

namespace Sys2Proof.Machine

-- One theorem at a time, as in the tests: the memory limit of the check leaves room for few threads.
set_option Elab.async false

variable {s t : State} {i : Slot} {e : Exchange}

theorem count_conclusion_append_reports (l : List Item) (ks : List StoreIndex) (i : Slot) :
    (l ++ ks.map Item.report).count (Item.conclusion i) = l.count (Item.conclusion i) := by
  simp [List.count_append, List.count_eq_zero]

theorem count_conclusion_append_control (l : List Item) (f : Frame) (i : Slot) :
    (l ++ [Item.control f]).count (Item.conclusion i) = l.count (Item.conclusion i) := by
  simp [List.count_append]

/-- The laws of traffic depend on no other fields of a state. -/
theorem State.TrafficLaws.of_fields (law : s.TrafficLaws) (hslots : t.slots = s.slots)
    (hstate : ∀ n, (t.node n).state = (s.node n).state) (hpending : t.pendingOrder = s.pendingOrder)
    (hdeferral : t.deferralList = s.deferralList)
    (hdelivery : ∀ i, t.delivery.count (.conclusion i) = s.delivery.count (.conclusion i)) (hintake : t.intake = s.intake)
    (hschedule : t.schedule = s.schedule) : t.TrafficLaws :=
  ⟨law.slots.of_fields hslots hstate hpending hdeferral hdelivery, law.intake.of_intake hintake, law.entries.of_schedule hschedule⟩

theorem State.TrafficLaws.place (law : s.TrafficLaws) (f : Frame) : (s.place f).TrafficLaws :=
  law.of_fields rfl (fun _ => rfl) rfl rfl (count_conclusion_append_control _ f) rfl rfl

/-- A frame leaves the front of the Head Intake. -/
theorem State.TrafficLaws.taken (law : s.TrafficLaws) {f : Frame} {rest : List Frame} (h : s.intake = f :: rest) :
    State.TrafficLaws { s with intake := rest } :=
  ⟨law.slots.of_fields rfl (fun _ => rfl) rfl rfl fun _ => rfl,
    law.intake.of_subset fun _ hg => h ▸ List.mem_cons_of_mem _ hg, law.entries.of_schedule rfl⟩

/-! ## The directives -/

theorem loadEntryOfImage_valid {bytes : List Byte} {k : EntryIndex} {fields : ScheduleFields}
    (h : loadEntryOfImage bytes = some (k, fields)) : scheduleFieldsValid fields = true := by
  unfold loadEntryOfImage at h
  split at h
  · cases h
  · split at h
    · dsimp only at h
      split at h
      · cases h; assumption
      · cases h
    · cases h

theorem inRange_loadEntry {x : ScheduleEntry} {fields : ScheduleFields} (hx : x.InRange)
    (hfields : scheduleFieldsValid fields = true) : (loadEntry fields x).1.InRange := by
  have loaded {g : ScheduleFields} (hg : some fields = some g) : scheduleFieldsValid g = true := Option.some.inj hg ▸ hfields
  unfold loadEntry
  split <;> rintro g (hg | hg)
  · exact loaded hg
  · exact hx g (.inr hg)
  · exact loaded hg
  · exact hx g (.inr hg)
  · exact hx g (.inl hg)
  · exact loaded hg

theorem trafficLaws_restarted (law : s.TrafficLaws) : s.restarted.TrafficLaws := by
  have hslot (i : Slot) : s.restarted.slot i = none := by simp [State.slot, State.restarted]
  have hstate (n : Nat) : (s.restarted.node n).state = .idle := by
    rw [State.node_map (s := s) (g := restartedNode) rfl]
    split
    · rfl
    · rfl
  refine ⟨⟨fun i => ?_, List.nodup_nil, List.nodup_nil, fun i => by simp [State.restarted]⟩, law.intake.of_intake rfl,
    law.entries.map (g := restartedEntry) (fun x hx => ?_) rfl⟩
  · rw [hslot]
    refine ⟨fun _ h => (nomatch h), fun n st hst => ?_, by simp [State.restarted], by simp [State.restarted],
      by simp [State.restarted]⟩
    rw [hstate]
    constructor
    · rintro rfl; cases hst
    · rintro ⟨_, h, _⟩; cases h
  · exact (inRange_disarmed hx).of_fields (.inl rfl) (.inl rfl)

theorem State.TrafficLaws.directive_effect (law : s.TrafficLaws) {c : Instr} (h : DirectiveEffect s c t) : t.TrafficLaws := by
  have entries {f : ScheduleEntry → ScheduleEntry} (k : EntryIndex) (hf : ∀ x, x.InRange → (f x).InRange) :
      (s.updateEntry k f).TrafficLaws :=
    ⟨law.slots.of_fields rfl (fun _ => rfl) rfl rfl fun _ => rfl, law.intake.of_intake rfl, law.entries.updateEntry hf k⟩
  cases h with
  | cancelExchange i e tag hs =>
    exact ⟨law.slots.endExchange hs _, law.intake.of_intake (by simp), law.entries.of_schedule (by simp)⟩
  | cancelNode n =>
    exact ⟨foldl_keeps (fun u i (h : u.SlotLaws) => h.cancelSlot i) _ law.slots,
      law.intake.of_intake (foldl_field State.intake _ (by simp) _ s),
      law.entries.of_schedule (foldl_field State.schedule _ (by simp) _ s)⟩
  | postGrant n k =>
    refine law.of_fields rfl (fun m => ?_) rfl rfl (count_conclusion_append_reports _ _) rfl rfl
    refine state_updateNode ?_ _ n m
    exact fun _ => rfl
  | withdrawGrant n =>
    refine law.of_fields rfl (fun m => ?_) rfl rfl (fun _ => rfl) rfl rfl
    refine state_updateNode ?_ _ n m
    exact fun _ => rfl
  | discardParked n =>
    refine law.of_fields rfl (fun m => ?_) rfl rfl (fun _ => rfl) rfl rfl
    refine state_updateNode ?_ _ n m
    exact fun _ => rfl
  | loadScheduleEntry arguments k fields image =>
    exact entries k fun x hx => inRange_loadEntry hx (loadEntryOfImage_valid image)
  | armEntry k live => exact entries k fun x hx => hx.of_fields (.inl rfl) (.inl rfl)
  | disarmEntry k => exact entries k fun x hx => inRange_disarmed hx
  | clearEntry k => exact entries k fun x hx => hx.of_fields (.inr (.inr rfl)) (.inr rfl)
  | restart => exact trafficLaws_restarted law
  | _ => exact law.of_fields rfl (fun _ => rfl) rfl rfl (fun _ => rfl) rfl rfl

/-! ## The commands -/

theorem trafficLaws_reset : State.reset.TrafficLaws := by
  refine ⟨⟨fun i => ?_, List.nodup_nil, List.nodup_nil, fun i => by simp [State.reset]⟩, fun f hf => ?_, fun k => ?_⟩
  · rw [State.slot_reset]
    refine ⟨fun _ h => (nomatch h), fun n st hst => ?_, by simp [State.reset], by simp [State.reset], by simp [State.reset]⟩
    rw [State.node_reset]
    constructor
    · rintro rfl; cases hst
    · rintro ⟨_, h, _⟩; cases h
  · cases hf
  · rw [State.entry_reset]
    rintro fields (h | h) <;> cases h

/-- An accepted REQUEST is not addressed to node 0 (R71). -/
theorem judgeRequest_node {f : Frame} {p : Policy} (h : s.judgeRequest f = .accept p) : f.node ≠ 0 := by
  rintro h0
  unfold State.judgeRequest at h
  rw [if_pos h0] at h
  split at h <;> cases h

/-- A broadcast has no answer window that could end (R96). -/
theorem State.SlotLaws.node_ne_of_answerDue (law : s.SlotLaws) (hs : s.slot i = some e)
    (h : reached? s.now e.answerDue = true) : e.node ≠ 63 := by
  intro hn
  rw [(((law.slot i).sound e hs).broadcast hn).1] at h
  cases h

theorem quietReached_slot {n : Nat} (h : s.quietReached n = true) : (s.node n).state.slot? = none := by
  simp only [State.quietReached, Bool.and_eq_true] at h
  cases hst : (s.node n).state with
  | idle => rfl
  | quiet q => rfl
  | occupied i => rw [hst] at h; exact absurd h.2 (by simp [quietUntil, reached?])
  | held i => rw [hst] at h; exact absurd h.2 (by simp [quietUntil, reached?])

theorem entriesLaw_releaseSlot (law : s.EntriesLaw) (i : Slot) : (s.releaseSlot i).EntriesLaw := by
  unfold State.releaseSlot
  split
  · next e _ =>
    have set : (s.setSlot i none).EntriesLaw := law.of_schedule rfl
    cases e.origin with
    | schedule k =>
      refine set.updateEntry (f := fun x => if x.openSlot = some i then { x with openSlot := none } else x) (fun x hx => ?_) k
      split
      · exact hx.of_fields (.inl rfl) (.inl rfl)
      · exact hx
    | head tag => exact set
  · exact law

theorem State.SlotLaws.endField (law : s.SlotLaws) : s.endField.SlotLaws :=
  law.of_fields rfl (fun _ => rfl) rfl rfl fun _ => rfl

theorem State.TrafficLaws.effect (law : s.TrafficLaws) {c : Instr} (h : Effect s c t) : t.TrafficLaws := by
  have slots {u : State} (hu : u.SlotLaws) (hintake : u.intake = s.intake) (hschedule : u.schedule = s.schedule) :
      u.TrafficLaws := ⟨hu, law.intake.of_intake hintake, law.entries.of_schedule hschedule⟩
  cases h with
  | reset => exact trafficLaws_reset.of_fields rfl (fun _ => rfl) rfl rfl (fun _ => rfl) rfl rfl
  | arrival _ line bytes =>
    exact ⟨law.slots.arrive line bytes, law.intake.arrive line bytes, law.entries.of_schedule (by simp)⟩
  | startPatternSeen line =>
    exact slots (law.slots.of_fields (by simp) (fun n => by rw [State.node_of_nodes (s := s) (by simp)]) (by simp) (by simp)
      (by simp)) (by simp) (by simp)
  | headLineDown =>
    exact slots (law.slots.of_fields (by simp) (fun n => by rw [State.node_of_nodes (s := s) (by simp)]) (by simp) (by simp)
      (by simp)) (by simp) (by simp)
  | fieldLineDown => exact slots (law.slots.loseField _) (by simp) (by simp)
  | issueSelection i e start hs hn =>
    obtain ⟨-, e', hs', he⟩ := fieldStart_exchange start
    obtain rfl := Option.some.inj (hs.symm.trans hs')
    exact slots (law.slots.selectToNode hs he hn) (by simp) (by simp)
  | broadcastSelection i e start hs hn =>
    obtain ⟨-, e', hs', he⟩ := fieldStart_exchange start
    obtain rfl := Option.some.inj (hs.symm.trans hs')
    exact slots (law.slots.selectBroadcast hs he hn) (by simp) (by simp)
  | issueTransmitCompletion i n number window => exact slots (law.slots.completeIssue n window).endField (by simp) (by simp)
  | broadcastTransmitCompletion i number window e flight hs issued hn =>
    have hclaim : e.claim i = none := by simp [Exchange.claim, issued, hn]
    exact slots (law.slots.conclude_unclaiming (f := completedRecord s e) hs hclaim (by simp [issued]) rfl _).endField
      (by simp) (by simp)
  | outcomeTransmitCompletion i rest first =>
    have hdelivery : s.completeHead.delivery = rest := by simp [first]
    exact ⟨law.slots.released first (fun j => s.completeHead.slot_releaseSlot i j)
      (fun n => by rw [State.node_of_nodes (s := s) (by simp)]) (by simp) (by simp) (by simpa using hdelivery),
      law.intake.of_intake (by simp), entriesLaw_releaseSlot (s := s.completeHead) (law.entries.of_schedule rfl) i⟩
  | reportDeliveryCompletion k rest first =>
    exact law.of_fields rfl (fun _ => rfl) rfl rfl (fun i => by simp [first]) rfl rfl
  | controlTransmitCompletion f rest first =>
    exact law.of_fields rfl (fun _ => rfl) rfl rfl (fun i => by simp [first]) rfl rfl
  | answerWindowExpiry i e hs issued due =>
    exact slots (law.slots.takeSilence hs issued (law.slots.node_ne_of_answerDue hs due)) (by simp) (by simp)
  | reissueDue i e hs deferred => exact slots (law.slots.becomeReady hs deferred) rfl rfl
  | lifetimeOfBroadcast i e hs issued hn =>
    exact slots (law.slots.setSlot (f := { e with lifetimeArmed := false }) hs rfl rfl (by simp [issued])
      fun h => (((law.slots.slot i).sound e hs).broadcast h).1) rfl rfl
  | lifetimeEnd i e hs => exact slots (law.slots.endExchange hs _) (by simp) (by simp)
  | quietUntilReached n due => exact slots (law.slots.setNodeState (quietReached_slot due) rfl) rfl rfl
  | cycleStart =>
    have held : State.TrafficLaws { s with advanceHeld := false } :=
      law.of_fields rfl (fun _ => rfl) rfl rfl (fun _ => rfl) rfl rfl
    exact held.startCycle _
  | syncEdge => exact law.takeEdge
  | scheduleFiring k => exact law.fireAt _ k
  | requestAdmitted f rest p i intake verdict free =>
    have hle : f.node.toNat ≤ 63 := law.intake f (intake ▸ List.mem_cons_self)
    have hne : f.node.toNat ≠ 0 := fun h => judgeRequest_node verdict (BitVec.eq_of_toNat_eq (by simpa using h))
    have taken := law.taken intake
    exact ⟨taken.slots.openExchange (s.lowestFree_spec i free) _ ⟨by omega, hle⟩ _ _ _, taken.intake.of_intake rfl,
      taken.entries.of_schedule rfl⟩
  | requestRefused f rest code intake =>
    have tallied : (State.tally { s with intake := rest } .refusals).TrafficLaws :=
      (law.taken intake).of_fields rfl (fun _ => rfl) rfl rfl (fun _ => rfl) rfl rfl
    exact tallied.place _
  | flagsRaisedNoticePlaced => exact law.of_fields rfl (fun _ => rfl) rfl rfl (count_conclusion_append_control _ _) rfl rfl
  | grantWantedNoticePlaced n =>
    refine law.of_fields rfl (fun m => ?_) rfl rfl (count_conclusion_append_control _ _) rfl rfl
    refine state_updateNode ?_ _ n m
    exact fun _ => rfl
  | tick a b c d =>
    exact slots (law.slots.of_fields (by simp) (fun n => by rw [State.node_of_nodes (s := s) (by simp)]) (by simp) (by simp)
      (by simp)) (by simp) (by simp)
  | directive c u d rest status result intake place body =>
    have taken : s.taken.TrafficLaws := by
      have := law.taken intake
      exact ⟨law.slots.of_fields rfl (fun _ => rfl) rfl rfl fun _ => rfl, law.intake.of_subset fun f hf => List.mem_of_mem_tail hf,
        law.entries.of_schedule rfl⟩
    exact (taken.directive_effect body).place _
  | _ => exact law.of_fields rfl (fun _ => rfl) rfl rfl (fun _ => rfl) rfl rfl

/-- Settles O7: an exchange's changes of state go with its node's and with its places in the collections and the Delivery List, slot
by slot; the Head Intake and the Cycle Schedule supply the nodes of the exchanges that open. -/
theorem stepKeepsExchangeLaws : Obligations.StepKeepsExchangeLaws := by
  intro s t hexchange hconclusion h
  have law : t.TrafficLaws := step_keeps (Law := State.TrafficLaws)
    (fun _ _ law => law.of_fields rfl (fun _ => rfl) rfl rfl (fun _ => rfl) rfl rfl) (fun law => law.effect)
    (trafficLaws_iff.mpr ⟨hexchange, hconclusion⟩) h
  exact trafficLaws_iff.mp law

end Sys2Proof.Machine

/-! What the commands keep of the exchanges: the fields fixed at admission (R54), the slot buffer (R56), and a concluded record
(R101). -/

namespace Sys2Proof.Machine

-- One theorem at a time, as in the tests: the memory limit of the check leaves room for few threads.
set_option Elab.async false

variable {s t u : State} {i : Slot} {e f : Exchange}

/-! ## Changes that open and free no slot -/

/-- An exchange's fixed fields together with its slot buffer (R54, R56). -/
def Exchange.keptPart (e : Exchange) : Exchange := { e.fixedPart with buffer := e.buffer }

/-- No slot is opened or freed, p reads the same of every exchange, and every concluded record stands. -/
structure State.SlotsKept (p : Exchange → Exchange) (s t : State) : Prop where
  part : ∀ i, (t.slot i).map p = (s.slot i).map p
  concluded : ∀ i e, s.slot i = some e → e.state = .concluded → t.slot i = some e

section
variable {p : Exchange → Exchange}

theorem slotsKept_of_slots (h : t.slots = s.slots) : s.SlotsKept p t :=
  ⟨fun i => by rw [State.slot_of_slots h], fun i e he _ => by rw [State.slot_of_slots h, he]⟩

theorem State.SlotsKept.trans (h : s.SlotsKept p t) (h' : t.SlotsKept p u) : s.SlotsKept p u :=
  ⟨fun i => (h'.part i).trans (h.part i), fun i e he hc => h'.concluded i e (h.concluded i e he hc) hc⟩

/-- A slot's open exchange, not concluded, becomes one of which p reads the same. -/
theorem slotsKept_of_set (hs : s.slot i = some e) (hopen : e.state ≠ .concluded) (hpart : p f = p e)
    (hslot : ∀ j, t.slot j = if i = j then some f else s.slot j) : s.SlotsKept p t := by
  refine ⟨fun j => ?_, fun j g hg hc => ?_⟩
  · rw [hslot]
    split
    · next h => rw [← h, hs, Option.map_some, Option.map_some, hpart]
    · rfl
  · rw [hslot]
    split
    · next h => exact absurd (Option.some.inj (hs.symm.trans (h ▸ hg)) ▸ hc) hopen
    · exact hg

theorem slotsKept_foldl {α : Type} {g : State → α → State} (h : ∀ (u : State) a, u.SlotsKept p (g u a)) (l : List α) (s : State) :
    s.SlotsKept p (l.foldl g s) := by
  induction l generalizing s with
  | nil => exact slotsKept_of_slots rfl
  | cons a l ih => exact (h s a).trans (ih (g s a))

/-- The fixed fields are among the kept ones. -/
theorem State.SlotsKept.fixed (h : s.SlotsKept Exchange.keptPart t) : s.SlotsKept Exchange.fixedPart t := by
  refine ⟨fun i => ?_, h.concluded⟩
  have hfixed (x : Option Exchange) : x.map Exchange.fixedPart = (x.map Exchange.keptPart).map Exchange.fixedPart := by
    cases x <;> rfl
  rw [hfixed, h.part, ← hfixed]

end

/-! ## The operations -/

theorem slotsKept_conclude {p : Exchange → Exchange} (hs : s.slot i = some e) (hopen : e.state ≠ .concluded) {o : OutcomeCode}
    (hpart : p (concludedRecord f o) = p e) : s.SlotsKept p (s.conclude i f o) :=
  slotsKept_of_set hs hopen hpart (s.slot_conclude i · f o)

theorem slotsKept_becomeDeferred (hs : s.slot i = some e) (hopen : e.state ≠ .concluded) (hpart : f.keptPart = e.keptPart)
    (due : Mono) : s.SlotsKept Exchange.keptPart (s.becomeDeferred i f due) := by
  refine slotsKept_of_set (f := { f with state := .deferred, answerDue := none, reissueDue := some due }) hs hopen ?_
    (s.slot_becomeDeferred i · f due)
  exact hpart

theorem slotsKept_becomeReady (hs : s.slot i = some e) (hopen : e.state ≠ .concluded) (hpart : f.keptPart = e.keptPart) :
    s.SlotsKept Exchange.keptPart (s.becomeReady i f) := by
  refine slotsKept_of_set (f := { f with state := .ready, answerDue := none, reissueDue := none }) hs hopen ?_
    (s.slot_becomeReady i · f)
  exact hpart

theorem slotsKept_takeSilence (hs : s.slot i = some e) (hopen : e.state ≠ .concluded) :
    s.SlotsKept Exchange.keptPart (s.takeSilence i e) := by
  rcases s.takeSilence_cases i e with ⟨-, h⟩ | ⟨-, h⟩ <;> rw [h]
  · exact (slotsKept_conclude hs hopen rfl).trans (slotsKept_of_slots rfl)
  · exact slotsKept_becomeDeferred hs hopen (by rfl) _

theorem slotsKept_endExchange (hs : s.slot i = some e) (o : OutcomeCode) :
    s.SlotsKept Exchange.keptPart (s.endExchange i e o) := by
  rcases s.endExchange_cases i e o with ⟨-, h⟩ | ⟨hw, h⟩ | ⟨⟨hi, -⟩, h⟩ | ⟨hh, h⟩ <;> rw [h]
  · exact slotsKept_of_slots rfl
  · exact slotsKept_conclude hs (by simp [hw]) rfl
  · exact (slotsKept_conclude hs (by simp [hi]) rfl).trans (slotsKept_of_slots rfl)
  · exact (slotsKept_conclude hs (by rcases hh with hh | hh <;> simp [hh]) rfl).trans (slotsKept_of_slots rfl)

theorem slotsKept_cancelSlot (s : State) (i : Slot) : s.SlotsKept Exchange.keptPart (s.cancelSlot i) := by
  unfold State.cancelSlot
  split
  · next e hs => exact slotsKept_endExchange hs _
  · exact slotsKept_of_slots rfl

theorem slotsKept_loseIssue (s : State) (i : Slot) : s.SlotsKept Exchange.keptPart (s.loseIssue i) := by
  rcases s.loseIssue_cases i with ⟨-, h⟩ | ⟨e, hs, hissued, ⟨-, h⟩ | ⟨-, -, h⟩ | ⟨-, -, h⟩⟩ <;> rw [h]
  · exact slotsKept_of_slots rfl
  · exact slotsKept_conclude hs (by simp [hissued]) rfl
  · exact (slotsKept_conclude hs (by simp [hissued]) rfl).trans (slotsKept_of_slots rfl)
  · exact (slotsKept_becomeReady hs (by simp [hissued]) (by rfl)).trans (slotsKept_of_slots rfl)

theorem slotsKept_loseField (s : State) (arrived : Bool) : s.SlotsKept Exchange.keptPart (s.loseField arrived) := by
  have lost : s.SlotsKept Exchange.keptPart { s.endFieldReceive arrived with inFlight := none, receipts := [] } :=
    slotsKept_of_slots (by simp)
  exact (lost.trans (slotsKept_foldl slotsKept_loseIssue _ _)).trans (slotsKept_of_slots rfl)

theorem slotsKept_takeDefer (hs : s.slot i = some e) (hissued : e.state = .issued) (hint : Option Nat) :
    s.SlotsKept Exchange.keptPart (s.takeDefer i e hint) := by
  unfold State.takeDefer
  split
  · exact (slotsKept_conclude hs (by simp [hissued]) rfl).trans (slotsKept_of_slots rfl)
  · exact slotsKept_becomeDeferred hs (by simp [hissued]) (by rfl) _

theorem slotsKept_deferArrives (s : State) (f : Frame) : s.SlotsKept Exchange.keptPart (s.deferArrives f) := by
  unfold State.deferArrives
  split
  · next i e hm =>
    obtain ⟨-, hs, hissued⟩ := matchFrame_matching hm
    exact slotsKept_takeDefer hs hissued _
  · exact slotsKept_of_slots rfl
  · exact slotsKept_of_slots rfl

/-- An answer brings a new slot buffer, and no other change of the fields fixed at admission (R56, R102). -/
theorem slotsKept_answerArrives (s : State) (f : Frame) : s.SlotsKept Exchange.fixedPart (s.answerArrives f) := by
  unfold State.answerArrives
  split
  · next i e hm =>
    obtain ⟨-, hs, hissued⟩ := matchFrame_matching hm
    have noted : s.SlotsKept Exchange.fixedPart (s.noteLatency e.node (answerLatency s e)) := slotsKept_of_slots rfl
    have hs' : (s.noteLatency e.node (answerLatency s e)).slot i = some e := hs
    unfold State.takeAnswer
    split
    · exact noted.trans ((slotsKept_conclude hs' (by simp [hissued]) rfl).trans (slotsKept_of_slots rfl))
    · exact noted.trans (slotsKept_takeSilence hs' (by simp [hissued])).fixed
  · exact slotsKept_of_slots rfl
  · exact slotsKept_of_slots rfl

/-- The arrival of bytes that are no ANSWER keeps the slot buffers too. -/
theorem slotsKept_arrive (s : State) {line : Line} {bytes : List Byte} (h : ∀ g, judgeBytes line bytes = .good g → g.kind ≠ .answer) :
    s.SlotsKept Exchange.keptPart (s.arrive line bytes) := by
  have ended (c : Counter) : s.SlotsKept Exchange.keptPart ((s.endReceive line).tally c) := slotsKept_of_slots (by simp)
  unfold State.arrive
  split
  · next g hgood =>
    have hkind := h g hgood
    unfold State.handOn
    split
    · exact (ended (goodCounter line)).trans (slotsKept_of_slots (by simp))
    · exact (ended (goodCounter line)).trans (slotsKept_of_slots (by simp))
    · contradiction
    · exact (ended (goodCounter line)).trans (slotsKept_deferArrives _ _)
    · exact (ended (goodCounter line)).trans (slotsKept_of_slots (by simp))
    all_goals exact ended _
  · exact ended _
  · exact ended _

theorem slotsKept_arrive_fixed (s : State) (line : Line) (bytes : List Byte) :
    s.SlotsKept Exchange.fixedPart (s.arrive line bytes) := by
  by_cases h : ∀ g, judgeBytes line bytes = .good g → g.kind ≠ .answer
  · exact (slotsKept_arrive s h).fixed
  · simp only [not_forall, not_not] at h
    obtain ⟨g, hgood, hkind⟩ := h
    have ended : s.SlotsKept Exchange.fixedPart ((s.endReceive line).tally (goodCounter line)) := slotsKept_of_slots (by simp)
    unfold State.arrive
    simp only [hgood]
    unfold State.handOn
    simp only [hkind]
    exact ended.trans (slotsKept_answerArrives _ _)

theorem slotsKept_selectExchange (hs : s.slot i = some e) (hopen : e.state ≠ .concluded) :
    s.SlotsKept Exchange.keptPart (s.selectExchange i e) :=
  slotsKept_of_set hs hopen (f := { e with state := .issued, answerDue := none, issueCount := e.issueCount + 1 }) rfl
    (s.slot_selectExchange i · e)

/-- Where the exchange that occupies a node is not concluded, its completion keeps every concluded record. -/
theorem slotsKept_completeIssue (n window : Nat)
    (h : ∀ i e, (s.node n).state = .occupied i → s.slot i = some e → e.state ≠ .concluded) :
    s.SlotsKept Exchange.keptPart (s.completeIssue n window) := by
  unfold State.completeIssue
  split
  · next i hn =>
    split
    · next e hs => exact slotsKept_of_set hs (h i e hn hs) (by rfl) (s.slot_setSlot i · (some _))
    · exact slotsKept_of_slots rfl
  all_goals exact slotsKept_of_slots rfl

end Sys2Proof.Machine

/-! The fields of an open exchange are fixed (O57), and a concluded record stands (O58). -/

namespace Sys2Proof.Machine

-- One theorem at a time, as in the tests: the memory limit of the check leaves room for few threads.
set_option Elab.async false

variable {s t u : State} {i : Slot} {e f : Exchange} {c : Instr}

/-! ## Slots that open -/

/-- Every exchange stands as it was: slots are opened only. -/
def State.SlotsGrow (s t : State) : Prop := ∀ i e, s.slot i = some e → t.slot i = some e

theorem slotsGrow_of_slots (h : t.slots = s.slots) : s.SlotsGrow t :=
  fun i e he => by rw [State.slot_of_slots h, he]

theorem State.SlotsGrow.trans (h : s.SlotsGrow t) (h' : t.SlotsGrow u) : s.SlotsGrow u :=
  fun i e he => h' i e (h i e he)

theorem slotsGrow_openExchange (hfree : s.slot i = none) (o : Origin) (n : Nat) (fn : Byte) (d : List Byte) (p : Policy) :
    s.SlotsGrow (s.openExchange i o n fn d p) := by
  intro j e he
  rw [State.slot_openExchange, if_neg]
  · exact he
  · rintro rfl; rw [hfree] at he; cases he

theorem slotsGrow_fireAt (s : State) (phase : Nat) (k : EntryIndex) : s.SlotsGrow (s.fireAt phase k) := by
  unfold State.fireAt
  split
  · next live _ =>
    rcases s.fire_cases k live with ⟨g, -, h⟩ | ⟨p, i, -, -, hfree, h⟩ <;> rw [h]
    · exact slotsGrow_of_slots rfl
    · have hnone := s.lowestFree_spec i hfree
      exact slotsGrow_openExchange (s := s.updateEntry k fun e => markFired s.segmentTime (admittedEntry live i e)) hnone _ _ _ _ _
  · exact slotsGrow_of_slots rfl

theorem slotsGrow_startCycle (s : State) (kind : StartKind) : s.SlotsGrow (s.startCycle kind) := by
  have fires (l : List EntryIndex) (u : State) : u.SlotsGrow (l.foldl (fun st k => st.fireAt 0 k) u) := by
    induction l generalizing u with
    | nil => exact slotsGrow_of_slots rfl
    | cons k l ih => exact (slotsGrow_fireAt u 0 k).trans (ih _)
  unfold State.startCycle State.scheduleWork
  exact State.SlotsGrow.trans (slotsGrow_of_slots (by simp)) (fires allScheduled _)

theorem slotsGrow_takeEdge (s : State) : s.SlotsGrow s.takeEdge := by
  have ended : s.SlotsGrow s.takeLevel.captureEdge.endMisses := slotsGrow_of_slots rfl
  unfold State.takeEdge State.edgeEffect
  split
  · exact slotsGrow_of_slots rfl
  · exact ended.trans (slotsGrow_startCycle _ _)
  · exact ended.trans (slotsGrow_startCycle _ _)
  · exact slotsGrow_of_slots rfl

theorem slotsGrow_endCycle (s : State) : s.SlotsGrow s.endCycle :=
  State.SlotsGrow.trans (t := { s with advanceHeld := false }) (slotsGrow_of_slots rfl) (slotsGrow_startCycle _ _)

/-! ## What each effect does to the slots -/

/-- Whether a command is an arrival of bytes at a port. -/
def bringsBytes : Instr → Bool
  | .requestArrival .. => true
  | .directiveArrival .. => true
  | .answerArrival .. => true
  | .deferArrival .. => true
  | .reportArrival .. => true
  | .malformedFrame .. => true
  | _ => false

/-- Whether a command can open slots or free them. -/
def opensOrFrees : Instr → Bool
  | .reset => true
  | .restart => true
  | .outcomeTransmitCompletion => true
  | .cycleStart => true
  | .syncEdge => true
  | .scheduleFiring _ => true
  | .takeRequest => true
  | _ => false

theorem DirectiveEffect.slotsKept (h : DirectiveEffect s c t) (hc : c ≠ .restart) : s.SlotsKept Exchange.keptPart t := by
  cases h with
  | cancelExchange i e tag hs => exact slotsKept_endExchange hs _
  | cancelNode n => exact slotsKept_foldl slotsKept_cancelSlot _ _
  | restart => contradiction
  | _ => exact slotsKept_of_slots rfl

/-- A selection's exchange is not concluded (R87). -/
theorem fieldStart_open (start : s.fieldStart = some (.exchange i)) (hs : s.slot i = some e) : e.state ≠ .concluded := by
  obtain ⟨-, e', hs', he⟩ := fieldStart_exchange start
  obtain rfl := Option.some.inj (hs.symm.trans hs')
  intro hc
  have := eligible_pending he
  rw [hc] at this
  cases this

/-- A command that is no arrival, opens and frees no slot and completes no ISSUE keeps the slots. -/
theorem Effect.slotsKept (h : Effect s c t) (harrival : bringsBytes c = false) (hfree : opensOrFrees c = false)
    (hissue : c ≠ .issueTransmitCompletion) : s.SlotsKept Exchange.keptPart t := by
  cases h with
  | reset => cases hfree
  | arrival _ line bytes can which =>
    obtain ⟨_, _, _, _, rfl⟩ | ⟨_, _, _, rfl⟩ | ⟨_, _, _, _, rfl⟩ | ⟨_, _, _, _, rfl⟩ | ⟨_, _, _, _, rfl⟩ | ⟨_, rfl⟩ := which <;>
      cases harrival
  | startPatternSeen line => exact slotsKept_of_slots (by simp)
  | headLineDown => exact slotsKept_of_slots (by simp)
  | fieldLineDown => exact slotsKept_loseField s _
  | issueSelection i e start hs => exact (slotsKept_selectExchange hs (fieldStart_open start hs)).trans (slotsKept_of_slots rfl)
  | broadcastSelection i e start hs =>
    exact (slotsKept_selectExchange hs (fieldStart_open start hs)).trans (slotsKept_of_slots rfl)
  | issueTransmitCompletion => contradiction
  | broadcastTransmitCompletion i number window e flight hs issued =>
    exact (slotsKept_conclude (f := completedRecord s e) hs (by simp [issued]) rfl).trans (slotsKept_of_slots rfl)
  | outcomeTransmitCompletion => cases hfree
  | answerWindowExpiry i e hs issued => exact slotsKept_takeSilence hs (by simp [issued])
  | reissueDue i e hs deferred => exact slotsKept_becomeReady hs (by simp [deferred]) rfl
  | lifetimeOfBroadcast i e hs issued =>
    exact slotsKept_of_set hs (by simp [issued]) (by rfl) (s.slot_setSlot i · (some { e with lifetimeArmed := false }))
  | lifetimeEnd i e hs => exact slotsKept_endExchange hs _
  | cycleStart => cases hfree
  | syncEdge => cases hfree
  | scheduleFiring => cases hfree
  | requestAdmitted => cases hfree
  | requestRefused => cases hfree
  | tick => exact slotsKept_of_slots (by simp)
  | directive c u d rest status result intake place body =>
    have hrestart : c ≠ .restart := by rintro rfl; cases hfree
    have taken : s.SlotsKept Exchange.keptPart s.taken := slotsKept_of_slots rfl
    exact (taken.trans (body.slotsKept hrestart)).trans (slotsKept_of_slots rfl)
  | _ => exact slotsKept_of_slots rfl

theorem kind_of_good {line : Line} {f g : Frame} (h : judgeBytes line (frameBytes f) = .good g) : g.kind = f.kind := by
  have hbytes := (eq_frameBytes_of_good h).1
  rw [frameBytes_eq, frameBytes_eq] at hbytes
  have hcode := congrArg kindOfCode (List.cons.inj hbytes).1
  rw [kindOfCode_kindCode, kindOfCode_kindCode] at hcode
  exact (Option.some.inj hcode).symm

/-- An arrival other than an ANSWER's keeps the slots, buffers with them (R56). -/
theorem arrival_slotsKept (h : exec c s = .next t) (harrival : bringsBytes c = true) (hanswer : ∀ n g h p, c ≠ .answerArrival n g h p) :
    s.SlotsKept Exchange.keptPart t := by
  have framed (line : Line) {f : Frame} (hf : f.kind ≠ .answer) : s.SlotsKept Exchange.keptPart (s.arrive line (frameBytes f)) :=
    slotsKept_arrive s fun g hg => by rw [kind_of_good hg]; exact hf
  cases c with
  | requestArrival n t f p => rcases execRequestArrival_next h with rfl | ⟨-, rfl⟩; exacts [slotsKept_of_slots rfl, framed _ (by simp)]
  | directiveArrival n k a => rcases execDirectiveArrival_next h with rfl | ⟨-, rfl⟩; exacts [slotsKept_of_slots rfl, framed _ (by simp)]
  | answerArrival n t f p => exact absurd rfl (hanswer n t f p)
  | deferArrival n t f p => rcases execDeferArrival_next h with rfl | ⟨-, rfl⟩; exacts [slotsKept_of_slots rfl, framed _ (by simp)]
  | reportArrival n t f p => rcases execReportArrival_next h with rfl | ⟨-, rfl⟩; exacts [slotsKept_of_slots rfl, framed _ (by simp)]
  | malformedFrame line bytes =>
    rcases execMalformedFrame_next h with rfl | ⟨⟨hbad, -⟩, rfl⟩
    · exact slotsKept_of_slots rfl
    · exact slotsKept_arrive s fun g hg => by simp [hg, Verdict.isGood] at hbad
  | _ => cases harrival

/-- An ISSUE's completion changes no field fixed at admission, whatever exchange occupies its node. -/
theorem part_completeIssue (s : State) (n window : Nat) (i : Slot) :
    ((s.completeIssue n window).slot i).map Exchange.keptPart = (s.slot i).map Exchange.keptPart := by
  unfold State.completeIssue
  split
  · next j _ =>
    split
    · next e hs =>
      rw [State.slot_setSlot]
      split
      · next h => rw [← h, hs]; rfl
      · rfl
    · rfl
  all_goals rfl

/-! ## The commands that open and free slots -/

/-- A command that opens slots leaves every other as it was; a command that frees them leaves each as it was or FREE. -/
theorem slot_opensOrFrees (h : exec c s = .next t) (hc : opensOrFrees c = true) (hs : s.slot i = some e) :
    t.slot i = some e ∨ t.slot i = none ∧
      (c = .reset ∨ c = .restart ∨
        c = .outcomeTransmitCompletion ∧ s.delivery.head? = some (.conclusion i) ∧ s.headPort.completing s.now = true) := by
  cases c with
  | reset =>
    rw [execReset_next h]
    exact .inr ⟨by simp [State.slot, State.reset], .inl rfl⟩
  | restart =>
    cases exec_effect h with
    | stays => exact .inl hs
    | arrival _ _ _ _ which => simp at which
    | directive _ u d rest status result intake place body =>
      cases body with
      | answers => exact .inl hs
      | restart => exact .inr ⟨by simp [State.slot, State.restarted, State.place], .inr (.inl rfl)⟩
  | outcomeTransmitCompletion =>
    rcases execOutcomeTransmitCompletion_next h with rfl | ⟨j, rest, first, due, -, rfl⟩
    · exact .inl hs
    · rw [State.slot_releaseSlot]
      split
      · next hj => exact .inr ⟨rfl, .inr (.inr ⟨rfl, by simp [first, hj], due⟩)⟩
      · exact .inl hs
  | cycleStart =>
    rcases execCycleStart_next h with rfl | ⟨-, rfl⟩
    · exact .inl hs
    · rcases takeAdvance_cases s with ⟨-, h⟩ | ⟨-, h⟩ <;> rw [h]
      · exact .inl (slotsGrow_endCycle s i e hs)
      · exact .inl hs
  | syncEdge =>
    rcases execSyncEdge_next h with rfl | ⟨-, rfl⟩
    · exact .inl hs
    · exact .inl (slotsGrow_takeEdge s i e hs)
  | scheduleFiring k =>
    rcases execScheduleFiring_next h with rfl | ⟨-, rfl⟩
    · exact .inl hs
    · exact .inl (slotsGrow_fireAt s _ k i e hs)
  | takeRequest =>
    rcases execTakeRequest_next h with rfl | ⟨f, rest, -, -, ⟨p, j, -, hfree, -, rfl⟩ | ⟨code, -, -, rfl⟩⟩
    · exact .inl hs
    · have hnone := s.lowestFree_spec j hfree
      exact .inl (slotsGrow_openExchange (s := { s with intake := rest }) hnone _ _ _ _ _ i e hs)
    · exact .inl hs
  | _ => cases hc

/-- A command that neither opens nor frees slots, and completes no ISSUE, keeps them. -/
theorem exec_slotsKept (h : exec c s = .next t) (hfree : opensOrFrees c = false) (hissue : c ≠ .issueTransmitCompletion) :
    s.SlotsKept Exchange.fixedPart t ∧ ((∀ n g h p, c ≠ .answerArrival n g h p) → s.SlotsKept Exchange.keptPart t) := by
  by_cases hanswer : ∀ n g h p, c ≠ .answerArrival n g h p
  · have kept : s.SlotsKept Exchange.keptPart t := by
      cases harrival : bringsBytes c with
      | true => exact arrival_slotsKept h harrival hanswer
      | false => exact (exec_effect h).slotsKept harrival hfree hissue
    exact ⟨kept.fixed, fun _ => kept⟩
  · refine ⟨?_, fun hanswer' => absurd hanswer' hanswer⟩
    simp only [not_forall, not_not] at hanswer
    obtain ⟨n, g, k, p, rfl⟩ := hanswer
    rcases execAnswerArrival_next h with rfl | ⟨-, rfl⟩
    · exact slotsKept_of_slots rfl
    · exact slotsKept_arrive_fixed s _ _

/-! ## The two statements -/

theorem fixedPart_of_keptPart (h : f.keptPart = e.keptPart) : f.fixedPart = e.fixedPart :=
  show f.keptPart.fixedPart = e.keptPart.fixedPart from congrArg Exchange.fixedPart h

theorem buffer_of_keptPart (h : f.keptPart = e.keptPart) : f.buffer = e.buffer :=
  show f.keptPart.buffer = e.keptPart.buffer from congrArg Exchange.buffer h

/-- Settles O57: a slot that stays open keeps its fixed fields, and only an ANSWER's arrival brings a new buffer. -/
theorem admissionFieldsKept : Obligations.AdmissionFieldsKept := by
  intro c s t i e f h hs ht
  have of_part {p : Exchange → Exchange} (hpart : (t.slot i).map p = (s.slot i).map p) : p f = p e := by
    rw [hs, ht] at hpart
    exact Option.some.inj hpart
  have of_kept (hkept : f.keptPart = e.keptPart) :
      f.fixedPart = e.fixedPart ∧ (f.buffer ≠ e.buffer → ∃ n g h p, c = .answerArrival n g h p) :=
    ⟨fixedPart_of_keptPart hkept, fun hb => absurd (buffer_of_keptPart hkept) hb⟩
  cases hfree : opensOrFrees c with
  | true =>
    rcases slot_opensOrFrees h hfree hs with hsame | ⟨hnone, -⟩
    · obtain rfl := Option.some.inj (ht.symm.trans hsame)
      exact of_kept rfl
    · exact nomatch ht.symm.trans hnone
  | false =>
    by_cases hissue : c = .issueTransmitCompletion
    · subst hissue
      rcases execIssueTransmitCompletion_next h with rfl | ⟨j, n, number, window, -, -, -, -, rfl⟩
      · exact of_kept (of_part rfl)
      · exact of_kept (of_part (part_completeIssue s n window i))
    · obtain ⟨hfixed, hkept⟩ := exec_slotsKept h hfree hissue
      refine ⟨of_part (hfixed.part i), fun hb => ?_⟩
      by_contra hanswer
      simp only [not_exists] at hanswer
      exact hb (buffer_of_keptPart (of_part ((hkept hanswer).part i)))

theorem completing_iff_headSent : s.headPort.completing s.now = true ↔ s.headSent := by
  unfold Port.completing State.headSent
  cases s.headPort.tx <;> simp

/-- Settles O58: an exchange that occupies its node is ISSUED (R63), so that no command meets a concluded record but to free its
slot. -/
theorem conclusionStands : Obligations.ConclusionStands := by
  intro c s t i e law h hs
  cases hfree : opensOrFrees c with
  | true =>
    rcases slot_opensOrFrees h hfree hs with hsame | ⟨hnone, hwho⟩
    · exact ⟨fun _ => .inl hsame, fun hnone => nomatch hsame.symm.trans hnone⟩
    · refine ⟨fun _ => .inr hnone, fun _ => ?_⟩
      rwa [completing_iff_headSent] at hwho
  | false =>
    have kept : s.SlotsKept Exchange.fixedPart t := by
      by_cases hissue : c = .issueTransmitCompletion
      · subst hissue
        rcases execIssueTransmitCompletion_next h with rfl | ⟨j, n, number, window, -, -, -, -, rfl⟩
        · exact slotsKept_of_slots rfl
        · have completed := slotsKept_completeIssue (s := s) n window fun j g hn hg => by
            obtain ⟨-, g', hg', -, hissued⟩ := (law.occupied n j).mp hn
            obtain rfl := Option.some.inj (hg.symm.trans hg')
            simp [hissued]
          exact (completed.trans (slotsKept_of_slots (t := (s.completeIssue n window).endField) rfl)).fixed
      · exact (exec_slotsKept h hfree hissue).1
    refine ⟨fun hc => .inl (kept.concluded i e hs hc), fun hnone => ?_⟩
    have := kept.part i
    rw [hs, hnone] at this
    cases this

end Sys2Proof.Machine

/-! Head tags stay unique (R53), and schedule references exact (R169): what a command does to the origins of open exchanges and to
the references of the schedule entries (O6). -/

namespace Sys2Proof.Machine

-- One theorem at a time, as in the tests: the memory limit of the check leaves room for few threads.
set_option Elab.async false

variable {s t u : State} {i : Slot} {c : Instr} {k : EntryIndex}

/-- The origin of a slot's exchange. -/
def State.originAt (s : State) (i : Slot) : Option Origin := (s.slot i).map Exchange.origin

/-- The open-exchange reference of an entry (R169). -/
def State.referenceOf (s : State) (k : EntryIndex) : Option Slot := (s.entry k).openSlot

theorem originAt_eq_some {o : Origin} : s.originAt i = some o ↔ ∃ e, s.slot i = some e ∧ e.origin = o :=
  Option.map_eq_some_iff

theorem tagLaw_iff : s.TagLaw ↔
    ∀ i j tag, s.originAt i = some (.head tag) → s.originAt j = some (.head tag) → i = j := by
  constructor
  · intro h i j tag hi hj
    obtain ⟨e, he, ho⟩ := originAt_eq_some.mp hi
    obtain ⟨f, hf, ho'⟩ := originAt_eq_some.mp hj
    exact h i j e f tag he hf ho ho'
  · intro h i j e f tag he hf ho ho'
    exact h i j tag (originAt_eq_some.mpr ⟨e, he, ho⟩) (originAt_eq_some.mpr ⟨f, hf, ho'⟩)

theorem referenceLaw_iff : s.ReferenceLaw ↔ ∀ i k, s.referenceOf k = some i ↔ s.originAt i = some (.schedule k) := by
  simp only [originAt_eq_some, State.ReferenceLaw, State.referenceOf]

/-- The laws are kept where no origin and no reference changes. -/
theorem State.TagLaw.of_origins (law : s.TagLaw)
    (h : ∀ i tag, t.originAt i = some (.head tag) → s.originAt i = some (.head tag)) : t.TagLaw := by
  rw [tagLaw_iff] at law ⊢
  exact fun i j tag hi hj => law i j tag (h i tag hi) (h j tag hj)

theorem State.ReferenceLaw.of_same (law : s.ReferenceLaw) (horigins : ∀ i, t.originAt i = s.originAt i)
    (hreferences : ∀ k, t.referenceOf k = s.referenceOf k) : t.ReferenceLaw := by
  rw [referenceLaw_iff] at law ⊢
  exact fun i k => by rw [horigins, hreferences]; exact law i k

theorem originAt_of_slots (h : t.slots = s.slots) (i : Slot) : t.originAt i = s.originAt i := by
  rw [State.originAt, State.slot_of_slots h, State.originAt]

theorem referenceOf_of_schedule (h : t.schedule = s.schedule) (k : EntryIndex) : t.referenceOf k = s.referenceOf k := by
  rw [State.referenceOf, State.entry_of_schedule h, State.referenceOf]

theorem originAt_of_part (h : (t.slot i).map Exchange.fixedPart = (s.slot i).map Exchange.fixedPart) :
    t.originAt i = s.originAt i := by
  have horigin (x : Option Exchange) : x.map Exchange.origin = (x.map Exchange.fixedPart).map Exchange.origin := by
    cases x <;> rfl
  rw [State.originAt, horigin, h, ← horigin, State.originAt]

/-! ## Origins and references under the operations -/

theorem originAt_openExchange (s : State) (i j : Slot) (o : Origin) (n : Nat) (fn : Byte) (d : List Byte) (p : Policy) :
    (s.openExchange i o n fn d p).originAt j = if i = j then some o else s.originAt j := by
  rw [State.originAt, State.slot_openExchange]
  split
  · rfl
  · rfl

theorem originAt_releaseSlot (s : State) (i j : Slot) :
    (s.releaseSlot i).originAt j = if i = j then none else s.originAt j := by
  rw [State.originAt, State.slot_releaseSlot]
  split
  · rfl
  · rfl

theorem referenceOf_updateEntry (s : State) (k j : EntryIndex) (f : ScheduleEntry → ScheduleEntry) :
    (s.updateEntry k f).referenceOf j = if k = j then (f (s.entry k)).openSlot else s.referenceOf j := by
  rw [State.referenceOf, State.entry_updateEntry]
  split
  · rfl
  · rfl

/-- An update of an entry that leaves its reference alone changes no reference. -/
theorem referenceOf_updateEntry_of_kept {f : ScheduleEntry → ScheduleEntry} (hf : ∀ x, (f x).openSlot = x.openSlot) (s : State)
    (k j : EntryIndex) : (s.updateEntry k f).referenceOf j = s.referenceOf j := by
  rw [referenceOf_updateEntry]
  split
  · next h => rw [hf, ← h]; rfl
  · rfl

theorem openSlot_cycleEntry (ending : CycleCount) (length : Nat) (x : ScheduleEntry) :
    (cycleEntry ending length x).openSlot = x.openSlot := by
  have hcut : (cutEntry ending x).openSlot = x.openSlot := by unfold cutEntry; split <;> rfl
  have hpromote : (promoteEntry (cutEntry ending x)).openSlot = x.openSlot := by unfold promoteEntry; split <;> exact hcut
  unfold cycleEntry disarmUnfit
  split <;> exact hpromote

theorem openSlot_disarmed (x : ScheduleEntry) : (disarmed x).openSlot = x.openSlot := by
  unfold disarmed; split <;> rfl

theorem openSlot_loadEntry (fields : ScheduleFields) (x : ScheduleEntry) : (loadEntry fields x).1.openSlot = x.openSlot := by
  unfold loadEntry; split <;> rfl

theorem openSlot_admittedEntry (live : ScheduleFields) (i : Slot) (x : ScheduleEntry) :
    (admittedEntry live i x).openSlot = some i := by
  unfold admittedEntry; split <;> rfl

/-! ## The schedule references law under a firing and a release -/

/-- A firing that admits sets the reference of its entry, none before, to the slot it opens (R168, R169). -/
theorem State.ReferenceLaw.fireAt (law : s.ReferenceLaw) (phase : Nat) (k : EntryIndex) : (s.fireAt phase k).ReferenceLaw := by
  unfold State.fireAt
  split
  · next live _ =>
    rcases s.fire_cases k live with ⟨g, hg, h⟩ | ⟨p, i, hopen, -, hfree, h⟩ <;> rw [h]
    · exact law.of_same (fun _ => rfl) (referenceOf_updateEntry_of_kept (fun x => (hg x).1) s k)
    · rw [referenceLaw_iff] at law ⊢
      intro j m
      have hunopened : s.originAt i = none := by rw [State.originAt, s.lowestFree_spec i hfree]; rfl
      have hreference : s.referenceOf k = none := hopen
      rw [originAt_openExchange]
      refine (Iff.of_eq (congrArg (· = some j)
        (referenceOf_updateEntry s k m fun x => markFired s.segmentTime (admittedEntry live i x)))).trans ?_
      have hset : (markFired s.segmentTime (admittedEntry live i (s.entry k))).openSlot = some i :=
        openSlot_admittedEntry live i (s.entry k)
      rw [hset]
      by_cases hm : k = m
      · subst hm
        have hnot : s.originAt j ≠ some (.schedule k) := by rw [ne_eq, ← law, hreference]; simp
        by_cases hj : i = j
        · simp [hj]
        · simp only [if_true, hj, if_false, Option.some.injEq, false_iff]
          exact hnot
      · by_cases hj : i = j
        · subst hj
          have hnot : s.referenceOf m ≠ some i := by rw [ne_eq, law, hunopened]; simp
          simp only [hm, if_false, if_true, Option.some.injEq, Origin.schedule.injEq, iff_false]
          exact hnot
        · simp only [hm, hj, if_false]
          exact law j m
  · exact law

theorem State.ReferenceLaw.startCycle (law : s.ReferenceLaw) (kind : StartKind) : (s.startCycle kind).ReferenceLaw := by
  unfold State.startCycle State.scheduleWork
  refine foldl_keeps (Law := State.ReferenceLaw) (fun u k hu => hu.fireAt 0 k) _ (law.of_same (originAt_of_slots (by simp)) ?_)
  intro k
  rw [State.referenceOf, State.entry_map (s := s) (g := cycleEntry s.cycle (s.newCycle kind).params.cycleLength) (by simp),
    openSlot_cycleEntry, State.referenceOf]

theorem State.ReferenceLaw.takeEdge (law : s.ReferenceLaw) : s.takeEdge.ReferenceLaw := by
  have same {u : State} (hslots : u.slots = s.slots) (hschedule : u.schedule = s.schedule) : u.ReferenceLaw :=
    law.of_same (originAt_of_slots hslots) (referenceOf_of_schedule hschedule)
  have ended : s.takeLevel.captureEdge.endMisses.ReferenceLaw := same rfl rfl
  unfold State.takeEdge State.edgeEffect
  split
  · exact same rfl rfl
  · exact ended.startCycle _
  · exact ended.startCycle _
  · exact same rfl rfl

/-- The reference that names a slot is cleared as the slot is released (R61, R169). -/
theorem State.ReferenceLaw.releaseSlot (law : s.ReferenceLaw) (i : Slot) : (s.releaseSlot i).ReferenceLaw := by
  have hreference (k : EntryIndex) : (s.releaseSlot i).referenceOf k = if s.referenceOf k = some i then none else s.referenceOf k := by
    have hlaw := (referenceLaw_iff.mp law) i k
    unfold State.releaseSlot
    split
    · next e he =>
      have horigin : s.originAt i = some e.origin := originAt_eq_some.mpr ⟨e, he, rfl⟩
      rw [horigin] at hlaw
      cases ho : e.origin with
      | head tag =>
        rw [ho] at hlaw
        simp only [Option.some.injEq, reduceCtorEq, iff_false] at hlaw
        rw [if_neg hlaw]
        rfl
      | schedule m =>
        rw [ho] at hlaw
        simp only [Option.some.injEq, Origin.schedule.injEq] at hlaw
        refine (referenceOf_updateEntry (s.setSlot i none) m k
          fun x => if x.openSlot = some i then { x with openSlot := none } else x).trans ?_
        by_cases hm : m = k
        · subst hm
          have hnamed : ((s.setSlot i none).entry m).openSlot = some i := hlaw.mpr rfl
          rw [if_pos rfl, if_pos hnamed, if_pos (hlaw.mpr rfl)]
        · rw [if_neg hm, if_neg (mt hlaw.mp hm)]
          rfl
    · next hnone =>
      have horigin : s.originAt i = none := by rw [State.originAt, hnone]; rfl
      rw [if_neg]
      rw [hlaw, horigin]
      simp
  rw [referenceLaw_iff] at law ⊢
  intro j k
  rw [hreference, originAt_releaseSlot]
  by_cases hj : i = j
  · subst hj
    simp only [if_true, reduceCtorEq, iff_false]
    split <;> simp_all
  · rw [if_neg hj, ← law]
    split
    · next h => simp [h, hj]
    · rfl

/-! ## What the commands do to origins and references -/

/-- A command that opens and frees no slot changes no origin. -/
theorem exec_originAt (h : exec c s = .next t) (hfree : opensOrFrees c = false) (i : Slot) : t.originAt i = s.originAt i := by
  by_cases hissue : c = .issueTransmitCompletion
  · subst hissue
    rcases execIssueTransmitCompletion_next h with rfl | ⟨j, n, number, window, -, -, -, -, rfl⟩
    · rfl
    · refine originAt_of_part ?_
      have hfixed (x : Option Exchange) : x.map Exchange.fixedPart = (x.map Exchange.keptPart).map Exchange.fixedPart := by
        cases x <;> rfl
      exact (hfixed _).trans ((congrArg _ (part_completeIssue s n window i)).trans (hfixed _).symm)
  · exact originAt_of_part ((exec_slotsKept h hfree hissue).1.part i)

theorem DirectiveEffect.referenceOf (h : DirectiveEffect s c t) (hc : c ≠ .restart) (k : EntryIndex) :
    t.referenceOf k = s.referenceOf k := by
  cases h with
  | cancelExchange i e => exact referenceOf_of_schedule (by simp) k
  | cancelNode n => exact referenceOf_of_schedule (foldl_field State.schedule _ (by simp) _ s) k
  | loadScheduleEntry arguments m fields => exact referenceOf_updateEntry_of_kept (openSlot_loadEntry fields) s m k
  | armEntry m live =>
    refine referenceOf_updateEntry_of_kept ?_ s m k
    exact fun _ => rfl
  | disarmEntry m => exact referenceOf_updateEntry_of_kept openSlot_disarmed s m k
  | clearEntry m =>
    refine referenceOf_updateEntry_of_kept ?_ s m k
    exact fun _ => rfl
  | restart => contradiction
  | _ => exact referenceOf_of_schedule rfl k

theorem Effect.referenceOf (h : Effect s c t) (hfree : opensOrFrees c = false) (k : EntryIndex) :
    t.referenceOf k = s.referenceOf k := by
  cases h with
  | outcomeTransmitCompletion => cases hfree
  | cycleStart => cases hfree
  | syncEdge => cases hfree
  | scheduleFiring => cases hfree
  | reset => cases hfree
  | directive c u d rest status result intake place body =>
    have hrestart : c ≠ .restart := by rintro rfl; cases hfree
    exact body.referenceOf hrestart k
  | _ => exact referenceOf_of_schedule (by simp) k

/-- Every command but the taking of a REQUEST opens SCHEDULE-origin exchanges alone (R50, R53). -/
theorem originAt_head_fireAt (phase : Nat) {tag : Byte} (h : (s.fireAt phase k).originAt i = some (.head tag)) :
    s.originAt i = some (.head tag) := by
  unfold State.fireAt at h
  split at h
  · next live _ =>
    rcases s.fire_cases k live with ⟨g, -, hfire⟩ | ⟨p, j, -, -, -, hfire⟩ <;> rw [hfire] at h
    · exact h
    · rw [originAt_openExchange] at h
      split at h
      · cases h
      · exact h
  · exact h

theorem State.TagLaw.fireAt (law : s.TagLaw) (phase : Nat) (k : EntryIndex) : (s.fireAt phase k).TagLaw :=
  law.of_origins fun _ _ h => originAt_head_fireAt phase h

theorem State.TagLaw.of_slots (law : s.TagLaw) (h : t.slots = s.slots) : t.TagLaw :=
  law.of_origins fun i _ hi => originAt_of_slots h i ▸ hi

theorem State.TagLaw.startCycle (law : s.TagLaw) (kind : StartKind) : (s.startCycle kind).TagLaw := by
  unfold State.startCycle State.scheduleWork
  exact foldl_keeps (Law := State.TagLaw) (fun u k hu => hu.fireAt 0 k) _ (law.of_slots (by simp))

theorem State.TagLaw.takeEdge (law : s.TagLaw) : s.takeEdge.TagLaw := by
  have ended : s.takeLevel.captureEdge.endMisses.TagLaw := law.of_slots rfl
  unfold State.takeEdge State.edgeEffect
  split
  · exact law.of_slots rfl
  · exact ended.startCycle _
  · exact ended.startCycle _
  · exact law.of_slots rfl

theorem mem_allSlots (i : Slot) : i ∈ allSlots := List.mem_finRange i

/-- An accepted REQUEST's tag is held by no open exchange (R53, R73). -/
theorem judgeRequest_tag {f : Frame} {p : Policy} (h : s.judgeRequest f = .accept p) (i : Slot) :
    s.originAt i ≠ some (.head f.tag) := by
  intro ho
  obtain ⟨e, he, horigin⟩ := originAt_eq_some.mp ho
  have hheld : s.tagHeld f.tag = true :=
    List.any_eq_true.mpr ⟨i, mem_allSlots i, by simp [he, horigin]⟩
  unfold State.judgeRequest at h
  simp only [hheld, if_true] at h
  split at h
  · cases h
  · split at h
    · cases h
    · split at h <;> cases h

/-! ## The laws -/

theorem not_originAt_of_free (h : ∀ i, s.slot i = none) (i : Slot) (o : Origin) : s.originAt i ≠ some o := by
  rw [State.originAt, h]
  simp

theorem tagLaw_of_free (h : ∀ i, s.slot i = none) : s.TagLaw :=
  tagLaw_iff.mpr fun i _ _ hi => absurd hi (not_originAt_of_free h i _)

theorem referenceLaw_of_free (h : ∀ i, s.slot i = none) (hreferences : ∀ k, s.referenceOf k = none) : s.ReferenceLaw :=
  referenceLaw_iff.mpr fun i k => by
    rw [hreferences]
    simpa using not_originAt_of_free h i (.schedule k)

theorem slot_restarted (s : State) (i : Slot) : s.restarted.slot i = none := by simp [State.slot, State.restarted]

theorem referenceOf_restarted (s : State) (k : EntryIndex) : s.restarted.referenceOf k = none := by
  rw [State.referenceOf, State.entry_map (s := s) (g := restartedEntry) rfl]
  rfl

theorem State.TagLaw.exec (law : s.TagLaw) (h : exec c s = .next t) : t.TagLaw := by
  cases hfree : opensOrFrees c with
  | false => exact law.of_origins fun i _ hi => exec_originAt h hfree i ▸ hi
  | true =>
    cases exec_effect h with
    | stays => exact law
    | reset => exact tagLaw_of_free fun i => State.slot_reset i
    | outcomeTransmitCompletion i rest =>
      refine law.of_origins fun j tag hj => ?_
      rw [originAt_releaseSlot] at hj
      split at hj
      · cases hj
      · exact hj
    | cycleStart =>
      have held : State.TagLaw { s with advanceHeld := false } := law.of_slots rfl
      exact held.startCycle _
    | syncEdge => exact law.takeEdge
    | scheduleFiring k => exact law.fireAt _ k
    | requestAdmitted f rest p i intake verdict free =>
      have hnew := judgeRequest_tag verdict
      rw [tagLaw_iff] at law ⊢
      intro j m tag hj hm
      rw [originAt_openExchange] at hj hm
      split at hj <;> split at hm
      · next h1 h2 => exact h1.symm.trans h2
      · cases hj; exact absurd hm (hnew m)
      · cases hm; exact absurd hj (hnew j)
      · exact law j m tag hj hm
    | directive _ u d rest status result intake place body =>
      cases body with
      | restart => exact tagLaw_of_free (slot_restarted s.taken)
      | answers => exact law.of_slots rfl
      | _ => cases hfree
    | arrival _ line bytes can which =>
      obtain ⟨_, _, _, _, rfl⟩ | ⟨_, _, _, rfl⟩ | ⟨_, _, _, _, rfl⟩ | ⟨_, _, _, _, rfl⟩ | ⟨_, _, _, _, rfl⟩ | ⟨_, rfl⟩ := which <;>
        cases hfree
    | advance => exact law.of_slots rfl
    | requestRefused => exact law.of_slots rfl
    | _ => cases hfree

theorem State.ReferenceLaw.exec (law : s.ReferenceLaw) (h : exec c s = .next t) : t.ReferenceLaw := by
  cases hfree : opensOrFrees c with
  | false => exact law.of_same (exec_originAt h hfree) ((exec_effect h).referenceOf hfree)
  | true =>
    have same {u : State} (hslots : u.slots = s.slots) (hschedule : u.schedule = s.schedule) : u.ReferenceLaw :=
      law.of_same (originAt_of_slots hslots) (referenceOf_of_schedule hschedule)
    cases exec_effect h with
    | stays => exact law
    | reset => exact referenceLaw_of_free (fun i => State.slot_reset i) fun k => congrArg ScheduleEntry.openSlot (State.entry_reset k)
    | outcomeTransmitCompletion i rest =>
      have completed : s.completeHead.ReferenceLaw := same rfl rfl
      exact completed.releaseSlot i
    | cycleStart =>
      have held : State.ReferenceLaw { s with advanceHeld := false } := same rfl rfl
      exact held.startCycle _
    | syncEdge => exact law.takeEdge
    | scheduleFiring k => exact law.fireAt _ k
    | requestAdmitted f rest p i intake verdict free =>
      have hunopened : s.originAt i = none := by rw [State.originAt, s.lowestFree_spec i free]; rfl
      rw [referenceLaw_iff] at law ⊢
      intro j k
      rw [originAt_openExchange]
      split
      · next hj =>
        subst hj
        refine (law i k).trans ?_
        rw [hunopened]
        simp
      · exact law j k
    | directive _ u d rest status result intake place body =>
      cases body with
      | restart => exact referenceLaw_of_free (slot_restarted s.taken) (referenceOf_restarted s.taken)
      | answers => exact same rfl rfl
      | _ => cases hfree
    | arrival _ line bytes can which =>
      obtain ⟨_, _, _, _, rfl⟩ | ⟨_, _, _, rfl⟩ | ⟨_, _, _, _, rfl⟩ | ⟨_, _, _, _, rfl⟩ | ⟨_, _, _, _, rfl⟩ | ⟨_, rfl⟩ := which <;>
        cases hfree
    | advance => exact same rfl rfl
    | requestRefused => exact same rfl rfl
    | _ => cases hfree

/-- A law that does not read the queue and that every command keeps, every step keeps. -/
theorem step_keeps_of_exec {Law : State → Prop} (hqueue : ∀ (s : State) rest, Law s → Law { s with pending := rest })
    (hexec : ∀ {s t : State} {c : Instr}, Law s → exec c s = .next t → Law t) (hs : Law s) (h : step s = .next t) : Law t := by
  cases hp : s.pending with
  | nil =>
    rw [step_of_no_pending hp] at h
    exact Host.Outcome.next.inj h ▸ hs
  | cons c rest =>
    rw [step_of_pending hp] at h
    exact hexec (hqueue s rest hs) h

/-- Settles O6: a REQUEST opens an exchange only with a tag that none holds; an entry's reference is set as it fires and cleared
as its exchange's slot is released, and no other command changes an origin or a reference. -/
theorem stepKeepsTagAndReferenceLaws : Obligations.StepKeepsTagAndReferenceLaws :=
  ⟨fun _ _ law => step_keeps_of_exec (fun _ _ law => law.of_slots rfl) (fun law => law.exec) law,
    fun _ _ law => step_keeps_of_exec (fun _ _ law => law.of_same (fun _ => rfl) fun _ => rfl) (fun law => law.exec) law⟩

end Sys2Proof.Machine

/-! The state after RESET# meets every law (O3). -/

namespace Sys2Proof.Machine

-- One theorem at a time, as in the tests: the memory limit of the check leaves room for few threads.
set_option Elab.async false

theorem policyLaw_reset : State.reset.PolicyLaw := by
  constructor <;> simp [State.reset]

/-- Settles O3, law by law: every collection is empty and every parameter at its initial value. -/
theorem resetIsSafe : Obligations.ResetIsSafe := by
  obtain ⟨exchange, conclusion⟩ := trafficLaws_iff.mp trafficLaws_reset
  exact ⟨clockLaw_reset, lineLaw_reset, capacityLaw_reset, policyLaw_reset, tagLaw_of_free fun i => State.slot_reset i,
    referenceLaw_of_free (fun i => State.slot_reset i) fun k => congrArg ScheduleEntry.openSlot (State.entry_reset k),
    conclusion, exchange, reportLaw_reset⟩

end Sys2Proof.Machine

/-! Which commands change the monotonic count, the length in force, policies, issue numbers, the admission counter and the flags
(O56). -/

namespace Sys2Proof.Machine

-- One theorem at a time, as in the tests: the memory limit of the check leaves room for few threads.
set_option Elab.async false

variable {s t u : State} {c : Instr} {i : Slot} {e : Exchange}

/-! ## Issue numbers (R62) -/

/-- No node's issue number is another. -/
def State.NumbersKept (s t : State) : Prop := ∀ n, (t.node n).issueNumber = (s.node n).issueNumber

theorem State.NumbersKept.trans (h : s.NumbersKept t) (h' : t.NumbersKept u) : s.NumbersKept u :=
  fun n => (h' n).trans (h n)

theorem numbersKept_of_nodes (h : t.nodes = s.nodes) : s.NumbersKept t :=
  fun n => by rw [State.node_of_nodes h]

theorem numbersKept_updateNode {f : NodeEntry → NodeEntry} (hf : ∀ x, (f x).issueNumber = x.issueNumber) (s : State) (n : Nat) :
    s.NumbersKept (s.updateNode n f) := by
  intro m
  rw [State.node_updateNode]
  split
  · next h => rw [hf, h.1]
  · rfl

theorem numbersKept_setNodeState (s : State) (n : Nat) (st : NodeState) : s.NumbersKept (s.setNodeState n st) := by
  refine numbersKept_updateNode ?_ s n
  exact fun _ => rfl

theorem numbersKept_foldl {α : Type} {g : State → α → State} (h : ∀ (u : State) a, u.NumbersKept (g u a)) (l : List α) (s : State) :
    s.NumbersKept (l.foldl g s) := by
  induction l generalizing s with
  | nil => exact fun _ => rfl
  | cons a l ih => exact (h s a).trans (ih (g s a))

theorem numbersKept_map {g : NodeEntry → NodeEntry} (hg : ∀ x, (g x).issueNumber = x.issueNumber)
    (h : t.nodes = s.nodes.map g) : s.NumbersKept t := by
  intro n
  rw [State.node_map (s := s) (g := g) h]
  split
  · exact hg _
  · next hn => rw [s.node_outside hn]

/-- A conclusion with a node transition. -/
theorem numbersKept_conclude (s : State) (i : Slot) (e : Exchange) (o : OutcomeCode) (n : Nat) (st : NodeState) :
    s.NumbersKept ((s.conclude i e o).setNodeState n st) :=
  State.NumbersKept.trans (t := s.conclude i e o) (fun _ => rfl) (numbersKept_setNodeState _ n st)

theorem numbersKept_becomeDeferred (s : State) (i : Slot) (e : Exchange) (due : Mono) : s.NumbersKept (s.becomeDeferred i e due) :=
  numbersKept_setNodeState _ e.node (.held i)

theorem numbersKept_takeSilence (s : State) (i : Slot) (e : Exchange) : s.NumbersKept (s.takeSilence i e) := by
  rcases s.takeSilence_cases i e with ⟨-, h⟩ | ⟨-, h⟩ <;> rw [h]
  · exact numbersKept_conclude s i _ _ _ _
  · exact numbersKept_becomeDeferred s i _ _

theorem numbersKept_endExchange (s : State) (i : Slot) (e : Exchange) (o : OutcomeCode) : s.NumbersKept (s.endExchange i e o) := by
  rcases s.endExchange_cases i e o with ⟨-, h⟩ | ⟨-, h⟩ | ⟨-, h⟩ | ⟨-, h⟩ <;> rw [h]
  · exact fun _ => rfl
  · exact fun _ => rfl
  · exact numbersKept_conclude s i e o _ _
  · exact numbersKept_conclude s i e o _ _

theorem numbersKept_cancelSlot (s : State) (i : Slot) : s.NumbersKept (s.cancelSlot i) := by
  unfold State.cancelSlot
  split
  · exact numbersKept_endExchange s i _ _
  · exact fun _ => rfl

theorem numbersKept_loseIssue (s : State) (i : Slot) : s.NumbersKept (s.loseIssue i) := by
  rcases s.loseIssue_cases i with ⟨-, h⟩ | ⟨e, -, -, ⟨-, h⟩ | ⟨-, -, h⟩ | ⟨-, -, h⟩⟩ <;> rw [h]
  · exact fun _ => rfl
  · exact fun _ => rfl
  · exact numbersKept_conclude s i _ _ _ _
  · exact State.NumbersKept.trans (t := s.becomeReady i { e with silentCount := e.silentCount + 1 }) (fun _ => rfl)
      (numbersKept_setNodeState _ _ _)

theorem numbersKept_loseField (s : State) (arrived : Bool) : s.NumbersKept (s.loseField arrived) := by
  have lost : s.NumbersKept { s.endFieldReceive arrived with inFlight := none, receipts := [] } :=
    numbersKept_of_nodes (by simp)
  have folded := lost.trans (numbersKept_foldl numbersKept_loseIssue
    (State.slotsByAge { s.endFieldReceive arrived with inFlight := none, receipts := [] } fun e => e.state == .issued) _)
  refine folded.trans (numbersKept_map (g := endQuiet) (fun x => ?_) rfl)
  unfold endQuiet
  split <;> rfl

theorem numbersKept_answerArrives (s : State) (f : Frame) : s.NumbersKept (s.answerArrives f) := by
  have noted (n : Nat) (ticks : Nat) : s.NumbersKept (s.noteLatency n ticks) := by
    refine numbersKept_updateNode ?_ s n
    exact fun _ => rfl
  unfold State.answerArrives
  split
  · unfold State.takeAnswer
    split
    · exact (noted _ _).trans (numbersKept_conclude _ _ _ _ _ _)
    · exact (noted _ _).trans (numbersKept_takeSilence _ _ _)
  · exact fun _ => rfl
  · exact numbersKept_setNodeState s _ _

theorem numbersKept_deferArrives (s : State) (f : Frame) : s.NumbersKept (s.deferArrives f) := by
  unfold State.deferArrives
  split
  · unfold State.takeDefer
    split
    · exact numbersKept_conclude s _ _ _ _ _
    · exact numbersKept_becomeDeferred s _ _ _
  · exact fun _ => rfl
  · exact numbersKept_setNodeState s _ _

theorem numbersKept_reportArrives (s : State) (f : Frame) : s.NumbersKept (s.reportArrives f) := by
  have owes {u : State} (r : Receipt) (h : s.NumbersKept u) : s.NumbersKept (u.oweReceipt r) :=
    h.trans (numbersKept_of_nodes (by simp))
  unfold State.reportArrives
  split
  · exact owes _ fun _ => rfl
  · split
    · split
      · refine owes _ (State.NumbersKept.trans (t := _) ?_ (numbersKept_updateNode ?_ _ _))
        all_goals exact fun _ => rfl
      · refine owes _ (State.NumbersKept.trans (t := _) ?_ (numbersKept_updateNode ?_ _ _))
        all_goals exact fun _ => rfl
    · exact owes _ fun _ => rfl

theorem numbersKept_arrive (s : State) (line : Line) (bytes : List Byte) : s.NumbersKept (s.arrive line bytes) := by
  have ended (c : Counter) : s.NumbersKept ((s.endReceive line).tally c) := numbersKept_of_nodes (by simp)
  unfold State.arrive
  split
  · unfold State.handOn
    split
    · exact (ended (goodCounter line)).trans (numbersKept_of_nodes (by simp))
    · exact (ended (goodCounter line)).trans (numbersKept_of_nodes (by simp))
    · exact (ended _).trans (numbersKept_answerArrives _ _)
    · exact (ended _).trans (numbersKept_deferArrives _ _)
    · exact (ended _).trans (numbersKept_reportArrives _ _)
    all_goals exact ended _
  · exact ended _
  · exact ended _

theorem numbersKept_completeIssue (s : State) (n window : Nat) : s.NumbersKept (s.completeIssue n window) := by
  unfold State.completeIssue
  split
  · split <;> exact fun _ => rfl
  · exact numbersKept_setNodeState s _ _
  all_goals exact fun _ => rfl

theorem DirectiveEffect.numbersKept (h : DirectiveEffect s c t) : s.NumbersKept t := by
  cases h with
  | cancelExchange i e => exact numbersKept_endExchange s i e _
  | cancelNode n => exact numbersKept_foldl numbersKept_cancelSlot _ _
  | postGrant n k =>
    refine State.NumbersKept.trans (t := _) ?_ (numbersKept_updateNode ?_ _ _)
    all_goals exact fun _ => rfl
  | withdrawGrant n =>
    refine numbersKept_updateNode ?_ _ _
    exact fun _ => rfl
  | discardParked n =>
    refine State.NumbersKept.trans (t := _) ?_ (numbersKept_updateNode ?_ _ _)
    all_goals exact fun _ => rfl
  | restart => exact numbersKept_map (g := restartedNode) (fun _ => rfl) rfl
  | _ => exact fun _ => rfl

theorem Effect.numbersKept (h : Effect s c t) (hreset : c ≠ .reset) (hselection : c ≠ .issueSelection) : s.NumbersKept t := by
  cases h with
  | reset => contradiction
  | issueSelection => contradiction
  | arrival _ line bytes => exact numbersKept_arrive s line bytes
  | startPatternSeen => exact numbersKept_of_nodes (by simp)
  | headLineDown => exact numbersKept_of_nodes (by simp)
  | fieldLineDown => exact numbersKept_loseField s _
  | issueTransmitCompletion i n number window =>
    exact (numbersKept_completeIssue s n window).trans (t := s.completeIssue n window) fun _ => rfl
  | outcomeTransmitCompletion => exact numbersKept_of_nodes (by simp)
  | answerWindowExpiry i e => exact numbersKept_takeSilence s i e
  | lifetimeEnd i e => exact numbersKept_endExchange s i e _
  | quietUntilReached n => exact numbersKept_setNodeState s n _
  | cycleStart => exact numbersKept_of_nodes (by simp)
  | syncEdge => exact numbersKept_of_nodes (by simp)
  | scheduleFiring => exact numbersKept_of_nodes (by simp)
  | grantWantedNoticePlaced n =>
    refine State.NumbersKept.trans (t := _) ?_ (numbersKept_updateNode ?_ _ _)
    all_goals exact fun _ => rfl
  | tick => exact numbersKept_of_nodes (by simp)
  | directive c u d rest status result intake place body => exact body.numbersKept
  | _ => exact fun _ => rfl

/-! ## Raised flags (R32, R36) -/

/-- Every raised flag is still raised. -/
def State.FlagsStay (s t : State) : Prop := ∀ f, (s.flag f).raised = true → (t.flag f).raised = true

theorem State.FlagsStay.trans (h : s.FlagsStay t) (h' : t.FlagsStay u) : s.FlagsStay u :=
  fun f hf => h' f (h f hf)

theorem flagsStay_of_flags (h : t.flags = s.flags) : s.FlagsStay t :=
  fun f hf => by simpa only [State.flag, h] using hf

theorem flagsStay_raiseFlag (s : State) (g : Flag) : s.FlagsStay (s.raiseFlag g) := by
  intro f hf
  rw [State.flag_raiseFlag]
  split
  · rfl
  · exact hf

theorem flagsStay_raiseFlagIf (s : State) (cause : Bool) (g : Flag) : s.FlagsStay (s.raiseFlagIf cause g) := by
  unfold State.raiseFlagIf
  split
  · exact flagsStay_raiseFlag s g
  · exact flagsStay_of_flags rfl

theorem flagsStay_offer (s : State) (f : Frame) : s.FlagsStay (s.offer f) := by
  unfold State.offer
  split
  · exact flagsStay_of_flags rfl
  · exact State.FlagsStay.trans (t := s.tally .headOverrunDiscards) (flagsStay_of_flags rfl) (flagsStay_raiseFlag _ _)

theorem flagsStay_reportArrives (s : State) (f : Frame) : s.FlagsStay (s.reportArrives f) := by
  have owes {u : State} (r : Receipt) (h : s.FlagsStay u) : s.FlagsStay (u.oweReceipt r) :=
    h.trans (flagsStay_of_flags (by simp))
  unfold State.reportArrives
  split
  · exact owes _ (flagsStay_of_flags rfl)
  · split
    · split
      · exact owes _ (flagsStay_of_flags rfl)
      · exact owes _ (flagsStay_of_flags rfl)
    · exact owes _ (State.FlagsStay.trans (t := s.tally .reportsRefused) (flagsStay_of_flags rfl) (flagsStay_raiseFlag _ _))

theorem flagsStay_arrive (s : State) (line : Line) (bytes : List Byte) : s.FlagsStay (s.arrive line bytes) := by
  have ended (c : Counter) : s.FlagsStay ((s.endReceive line).tally c) := flagsStay_of_flags (by simp)
  unfold State.arrive
  split
  · unfold State.handOn
    split
    · exact (ended _).trans (flagsStay_offer _ _)
    · exact (ended _).trans (flagsStay_offer _ _)
    · exact (ended (goodCounter line)).trans (flagsStay_of_flags (by simp))
    · exact (ended (goodCounter line)).trans (flagsStay_of_flags (by simp))
    · exact (ended _).trans (flagsStay_reportArrives _ _)
    all_goals exact ended _
  · exact ended _
  · exact ended _

theorem flagsStay_loseField (s : State) (arrived : Bool) : s.FlagsStay (s.loseField arrived) := by
  have lost : s.FlagsStay { s.endFieldReceive arrived with inFlight := none, receipts := [] } := flagsStay_of_flags (by simp)
  have folded := lost.trans (flagsStay_of_flags (foldl_field State.flags State.loseIssue (by simp)
    (State.slotsByAge { s.endFieldReceive arrived with inFlight := none, receipts := [] } fun e => e.state == .issued) _))
  have quiets {u : State} : u.FlagsStay { u with nodes := u.nodes.map endQuiet } := flagsStay_of_flags rfl
  exact folded.trans (quiets.trans (flagsStay_raiseFlag _ _))

theorem flagsStay_startCycle (s : State) (kind : StartKind) : s.FlagsStay (s.startCycle kind) := by
  have fires (l : List EntryIndex) (u : State) : u.FlagsStay (l.foldl (fun st k => st.fireAt 0 k) u) :=
    flagsStay_of_flags (foldl_field State.flags _ (by simp) l u)
  unfold State.startCycle State.scheduleWork
  refine State.FlagsStay.trans (State.FlagsStay.trans (State.FlagsStay.trans (State.FlagsStay.trans ?_
    (flagsStay_raiseFlagIf _ _ _)) (flagsStay_raiseFlagIf _ _ _)) (flagsStay_raiseFlagIf _ _ _)) (fires allScheduled _)
  exact flagsStay_of_flags rfl

theorem flagsStay_takeEdge (s : State) : s.FlagsStay s.takeEdge := by
  have ended : s.FlagsStay s.takeLevel.captureEdge.endMisses := flagsStay_of_flags rfl
  unfold State.takeEdge State.edgeEffect
  split
  · exact flagsStay_of_flags rfl
  · exact ended.trans (flagsStay_startCycle _ _)
  · exact ended.trans (flagsStay_startCycle _ _)
  · exact flagsStay_of_flags rfl

theorem DirectiveEffect.flagsStay (h : DirectiveEffect s c t) (hclear : c ≠ .clearFlags) : s.FlagsStay t := by
  cases h with
  | clearFlags => contradiction
  | cancelExchange i e => exact flagsStay_of_flags (by simp)
  | cancelNode n => exact flagsStay_of_flags (foldl_field State.flags _ (by simp) _ s)
  | _ => exact flagsStay_of_flags rfl

theorem Effect.flagsStay (h : Effect s c t) (hreset : c ≠ .reset) (hclear : c ≠ .clearFlags) : s.FlagsStay t := by
  cases h with
  | reset => contradiction
  | arrival _ line bytes => exact flagsStay_arrive s line bytes
  | fieldLineDown => exact flagsStay_loseField s _
  | cycleStart => exact State.FlagsStay.trans (t := { s with advanceHeld := false }) (flagsStay_of_flags rfl) (flagsStay_startCycle _ _)
  | syncEdge => exact flagsStay_takeEdge s
  | directive c u d rest status result intake place body =>
    exact (body.flagsStay hclear).trans (t := u) (flagsStay_of_flags rfl)
  | _ => exact flagsStay_of_flags (by simp)

/-! ## The other fields -/

theorem DirectiveEffect.now (h : DirectiveEffect s c t) : t.now = s.now := by
  cases h with
  | cancelNode n => exact foldl_field State.now _ (by simp) _ s
  | _ => simp

theorem Effect.now (h : Effect s c t) (hreset : c ≠ .reset) (htick : ∀ a b d e, c ≠ .tick a b d e) : t.now = s.now := by
  cases h with
  | reset => contradiction
  | tick a b d e => exact absurd rfl (htick a b d e)
  | directive c u d rest status result intake place body => exact body.now
  | _ => simp

theorem DirectiveEffect.cycleLength (h : DirectiveEffect s c t) : t.params.cycleLength = s.params.cycleLength := by
  cases h with
  | setParameters arguments p => rfl
  | cancelNode n => exact congrArg Parameters.cycleLength (foldl_field State.params _ (by simp) _ s)
  | _ => simp

theorem Effect.cycleLength (h : Effect s c t) (hreset : c ≠ .reset) (hstart : c ≠ .cycleStart) (hedge : c ≠ .syncEdge) :
    t.params.cycleLength = s.params.cycleLength := by
  cases h with
  | reset => contradiction
  | cycleStart => contradiction
  | syncEdge => contradiction
  | directive c u d rest status result intake place body => exact body.cycleLength
  | _ => simp

theorem DirectiveEffect.policies (h : DirectiveEffect s c t) (hload : c ≠ .loadPolicy) (hdrop : c ≠ .dropPolicy) :
    t.policies = s.policies := by
  cases h with
  | loadPolicy => contradiction
  | dropPolicy => contradiction
  | cancelNode n => exact foldl_field State.policies _ (by simp) _ s
  | _ => simp

theorem Effect.policies (h : Effect s c t) (hreset : c ≠ .reset) (hload : c ≠ .loadPolicy) (hdrop : c ≠ .dropPolicy) :
    t.policies = s.policies := by
  cases h with
  | reset => contradiction
  | directive c u d rest status result intake place body => exact body.policies hload hdrop
  | _ => simp

theorem DirectiveEffect.admissionCounter (h : DirectiveEffect s c t) : t.admissionCounter = s.admissionCounter := by
  cases h with
  | cancelNode n => exact foldl_field State.admissionCounter _ (by simp) _ s
  | _ => simp

theorem Effect.admissionCounter (h : Effect s c t) (hreset : c ≠ .reset) (htake : c ≠ .takeRequest) (hstart : c ≠ .cycleStart)
    (hedge : c ≠ .syncEdge) (hfiring : ∀ k, c ≠ .scheduleFiring k) : t.admissionCounter = s.admissionCounter := by
  cases h with
  | reset => contradiction
  | requestAdmitted => contradiction
  | cycleStart => contradiction
  | syncEdge => contradiction
  | scheduleFiring k => exact absurd rfl (hfiring k)
  | directive c u d rest status result intake place body => exact body.admissionCounter
  | _ => simp

/-- Settles O56, field by field: every other command leaves the field as it was. -/
theorem whoChanges : Obligations.WhoChanges := by
  intro c s t h
  have effect := exec_effect h
  refine ⟨fun hne => ?_, fun hne => ?_, fun hne => ?_, fun n hne => ?_, fun hne => ?_, fun f hraised hcleared => ?_⟩ <;>
    by_contra hc <;> simp only [not_or, not_exists] at hc
  · obtain ⟨hreset, htick⟩ := hc
    exact hne (effect.now hreset htick)
  · obtain ⟨hreset, hstart, hedge⟩ := hc
    exact hne (effect.cycleLength hreset hstart hedge)
  · obtain ⟨hreset, hload, hdrop⟩ := hc
    exact hne (effect.policies hreset hload hdrop)
  · obtain ⟨hreset, hselection⟩ := hc
    exact hne (effect.numbersKept hreset hselection n)
  · obtain ⟨hreset, htake, hstart, hedge, hfiring⟩ := hc
    exact hne (effect.admissionCounter hreset htake hstart hedge hfiring)
  · obtain ⟨hreset, hclear⟩ := hc
    have hstays := effect.flagsStay hreset hclear f hraised
    rw [hcleared] at hstays
    cases hstays

end Sys2Proof.Machine

/-! Answers, defers and the timers of exchanges and nodes (O15 to O18, O20 to O22). -/

namespace Sys2Proof.Machine

-- One theorem at a time, as in the tests: the memory limit of the check leaves room for few threads.
set_option Elab.async false

variable {s : State} {i : Slot} {e : Exchange} {n : Nat}

theorem changeNode_changeNode (nodes : Vector NodeEntry 62) (n : Nat) (f g : NodeEntry → NodeEntry) :
    changeNode (changeNode nodes n f) n g = changeNode nodes n fun x => g (f x) := by
  unfold changeNode
  split <;> simp

/-- A node's ANSWER or DEFER that can be handed on is judged by its match (R99). -/
theorem matchFrame_of_awaits {completed : Mono} (h : s.awaits n i e completed) :
    s.matchFrame n (s.node n).issueNumber = .matching i e := by
  obtain ⟨hnode, hslot, hissued, -, hdue, -⟩ := h
  simp [State.matchFrame, hnode, hslot, hissued, hdue]

theorem exec_answerArrival_of_good {node tag function : Byte} {payload : List Byte} (h : s.receivingReply)
    (hlow : 1 ≤ node.toNat) (hhigh : node.toNat ≤ 62) (hp : payload.length ≤ 200) :
    exec (.answerArrival node tag function payload) s =
      .next ((s.received .field).answerArrives ⟨.answer, node, tag, function, payload⟩) :=
  arriveReply_handsOn h (accepted_answer node tag function payload hlow hhigh hp)

theorem exec_deferArrival_of_good {node tag function : Byte} {payload : List Byte} (h : s.receivingReply)
    (hlow : 1 ≤ node.toNat) (hhigh : node.toNat ≤ 62) (hp : payload.length = 0 ∨ payload.length = 4) :
    exec (.deferArrival node tag function payload) s =
      .next ((s.received .field).deferArrives ⟨.defer, node, tag, function, payload⟩) :=
  arriveReply_handsOn h (accepted_defer node tag function payload hlow hhigh hp)

/-- The exchange that awaits an answer takes it (R99). -/
theorem answerArrival_taken {function : Byte} {node : Byte} {payload : List Byte} {completed : Mono} (h : s.receivingOn .field)
    (hlow : 1 ≤ node.toNat) (hhigh : node.toNat ≤ 62) (hp : payload.length ≤ 200) (ha : s.awaits node.toNat i e completed) :
    exec (.answerArrival node (s.node node.toNat).issueNumber function payload) s =
      .next ((s.received .field).takeAnswer i e payload) := by
  have hmatch : (s.received .field).matchFrame node.toNat (s.node node.toNat).issueNumber = .matching i e :=
    matchFrame_of_awaits (s := s.received .field) ha
  rw [exec_answerArrival_of_good (.inr h) hlow hhigh hp, State.answerArrives, hmatch]

theorem deferArrival_taken {function : Byte} {node : Byte} {payload : List Byte} {completed : Mono} (h : s.receivingOn .field)
    (hlow : 1 ≤ node.toNat) (hhigh : node.toNat ≤ 62) (hp : payload.length = 0 ∨ payload.length = 4)
    (ha : s.awaits node.toNat i e completed) :
    exec (.deferArrival node (s.node node.toNat).issueNumber function payload) s =
      .next ((s.received .field).takeDefer i e (deferHint payload)) := by
  have hmatch : (s.received .field).matchFrame node.toNat (s.node node.toNat).issueNumber = .matching i e :=
    matchFrame_of_awaits (s := s.received .field) ha
  rw [exec_deferArrival_of_good (.inr h) hlow hhigh hp, State.deferArrives, hmatch]

/-! ## The length verdict (R102) -/

theorem lengthVerdict_concludes {p : Policy} {length : Nat} {o : OutcomeCode} (hle : p.minimum ≤ p.maximum)
    (h : p.minimum ≤ length ∧ length ≤ p.maximum ∧ o = .answered ∨
      length < p.minimum ∧ p.shortAction = .deliver ∧ o = .answeredShort ∨
      p.maximum < length ∧ p.longAction = .deliver ∧ o = .answeredLong ∨
      p.maximum < length ∧ p.longAction = .truncate ∧ o = .truncated) :
    lengthVerdict p length = .concludes o := by
  unfold lengthVerdict
  rcases h with ⟨hmin, hmax, rfl⟩ | ⟨hshort, haction, rfl⟩ | ⟨hlong, haction, rfl⟩ | ⟨hlong, haction, rfl⟩
  · rw [if_neg (by omega), if_neg (by omega)]
  · rw [if_pos hshort, haction]
  · rw [if_neg (by omega), if_pos hlong, haction]
  · rw [if_neg (by omega), if_pos hlong, haction]

theorem lengthVerdict_silence {p : Policy} {length : Nat} (hle : p.minimum ≤ p.maximum)
    (h : length < p.minimum ∧ p.shortAction = .silence ∨ p.maximum < length ∧ p.longAction = .silence) :
    lengthVerdict p length = .silence := by
  unfold lengthVerdict
  rcases h with ⟨hshort, haction⟩ | ⟨hlong, haction⟩
  · rw [if_pos hshort, haction]
  · rw [if_neg (by omega), if_pos hlong, haction]

theorem answerLatency_eq {completed : Mono} (h : e.lastCompletion = some completed) : answerLatency s e = (s.now - completed).toNat := by
  rw [answerLatency, h]
  rfl

/-- A node's latencies and then its state change as one (R63, R65). -/
theorem setNodeState_noteLatency (s : State) (n latency : Nat) (st : NodeState) :
    changeNode (changeNode s.nodes n fun x => { x with lastLatency := latency, maxLatency := max x.maxLatency latency }) n
        (fun x => { x with state := st }) =
      changeNode s.nodes n fun x => { x with state := st, lastLatency := latency, maxLatency := max x.maxLatency latency } :=
  changeNode_changeNode s.nodes n _ _

/-- Settles O15: the length gives the verdict, and the conclusion follows by definition. -/
theorem answerConcludes : Obligations.AnswerConcludes := by
  intro s node function payload i e completed o hrecv hlow hhigh hp ha hle hverdict
  obtain ⟨-, -, -, hnode, -, hcompleted⟩ := id ha
  have hlatency : answerLatency (s.received .field) e = (s.now - completed).toNat := answerLatency_eq hcompleted
  rw [answerArrival_taken hrecv hlow hhigh hp ha]
  unfold State.takeAnswer
  simp only [lengthVerdict_concludes hle hverdict, hlatency, hnode, answeredRecord]
  rw [← setNodeState_noteLatency]
  rfl

/-- Settles O16: both sides of the Silent Limit. -/
theorem answerTakenAsSilence : Obligations.AnswerTakenAsSilence := by
  intro s node function payload i e completed hrecv hlow hhigh hp ha hle hverdict
  obtain ⟨-, -, -, hnode, -, hcompleted⟩ := id ha
  have hlatency : answerLatency (s.received .field) e = (s.now - completed).toNat := answerLatency_eq hcompleted
  rw [answerArrival_taken hrecv hlow hhigh hp ha]
  unfold State.takeAnswer
  simp only [lengthVerdict_silence hle hverdict, hlatency, hnode]
  unfold State.takeSilence
  refine ⟨fun hwithin => ?_, fun hbeyond => ?_⟩
  · rw [if_neg (by omega), ← setNodeState_noteLatency, hnode]
    rfl
  · rw [if_pos hbeyond, ← setNodeState_noteLatency, hnode]
    rfl

/-! ## Stale and late frames -/

theorem matchFrame_stale {tag : Byte}
    (h : (s.node n).state = .idle ∨ (∃ i, (s.node n).state = .held i) ∨ tag ≠ (s.node n).issueNumber ∨
      ∃ i e, (s.node n).state = .occupied i ∧ s.slot i = some e ∧ e.answerDue = none) :
    s.matchFrame n tag = .stale := by
  unfold State.matchFrame
  rcases h with hidle | ⟨i, hheld⟩ | htag | ⟨i, e, hocc, hslot, hdue⟩
  · simp [hidle]
  · simp [hheld]
  · cases (s.node n).state with
    | occupied i =>
      dsimp only
      split
      · simp [htag]
      · rfl
    | quiet q => simp [htag]
    | idle => rfl
    | held i => rfl
  · simp [hocc, hslot, hdue]

theorem matchFrame_of_quiet {tag : Byte} (h : ∃ q, (s.node n).state = .quiet q) (htag : tag = (s.node n).issueNumber) :
    s.matchFrame n tag = .late := by
  obtain ⟨q, hq⟩ := h
  simp [State.matchFrame, hq, htag]

/-- Settles O17: an ANSWER and a DEFER that match no open window have the same effect. -/
theorem staleAndLateFrames : Obligations.StaleAndLateFrames := by
  intro s node tag function payload hrecv hlow hhigh
  constructor
  · intro hstale
    have hmatch : (s.received .field).matchFrame node.toNat tag = .stale := matchFrame_stale (s := s.received .field) hstale
    refine ⟨fun hp => ?_, fun hp => ?_⟩
    · rw [exec_answerArrival_of_good hrecv hlow hhigh hp, State.answerArrives, hmatch]
      rfl
    · rw [exec_deferArrival_of_good hrecv hlow hhigh hp, State.deferArrives, hmatch]
      rfl
  · intro hquiet htag
    have hmatch : (s.received .field).matchFrame node.toNat tag = .late := matchFrame_of_quiet (s := s.received .field) hquiet htag
    refine ⟨fun hp => ?_, fun hp => ?_⟩
    · rw [exec_answerArrival_of_good hrecv hlow hhigh hp, State.answerArrives, hmatch]
      rfl
    · rw [exec_deferArrival_of_good hrecv hlow hhigh hp, State.deferArrives, hmatch]
      rfl

theorem deferHint_eq {payload : List Byte} {hint : Option Nat}
    (h : payload = [] ∧ hint = none ∨ payload.length = 4 ∧ hint = some (beNat payload)) : deferHint payload = hint := by
  rcases h with ⟨rfl, rfl⟩ | ⟨hlength, rfl⟩
  · rfl
  · rw [deferHint, if_pos hlength]

/-- Settles O18: both sides of the Defer Limit. -/
theorem deferTaken : Obligations.DeferTaken := by
  intro s node function payload i e completed hint hrecv hlow hhigh hp ha
  obtain ⟨-, -, -, hnode, -, -⟩ := id ha
  have hlength : payload.length = 0 ∨ payload.length = 4 := hp.imp (fun h => by simp [h.1]) And.left
  rw [deferArrival_taken hrecv hlow hhigh hlength ha, deferHint_eq hp]
  unfold State.takeDefer
  refine ⟨fun hwithin => ?_, fun hbeyond => ?_⟩
  · rw [if_neg (by omega), ← hnode]
    rfl
  · rw [if_pos hbeyond, ← hnode]
    rfl

/-! ## Timers -/

theorem exec_answerWindowExpiry (s : State) (i : Slot) : exec (.answerWindowExpiry i) s = execAnswerWindowExpiry i s := rfl
theorem exec_reissueDue (s : State) (i : Slot) : exec (.reissueDue i) s = execReissueDue i s := rfl
theorem exec_lifetimeEnd (s : State) (i : Slot) : exec (.lifetimeEnd i) s = execLifetimeEnd i s := rfl
theorem exec_quietUntilReached (s : State) (n : Nat) : exec (.quietUntilReached n) s = execQuietUntilReached n s := rfl

/-- Settles O20: both sides of the Silent Limit. -/
theorem answerWindowExpiry : Obligations.AnswerWindowExpiry := by
  intro s i e due hs hissued hdue hreached hturn
  have hexpires : s.windowExpires i = some e := by simp [State.windowExpires, hs, hissued, hdue, reached?, hreached]
  have htaken : exec (.answerWindowExpiry i) s = .next (s.takeSilence i e) := by
    rw [exec_answerWindowExpiry, execAnswerWindowExpiry, hexpires]
    exact inTurn_taken (noHanding_iff.mp hturn)
  rw [htaken]
  unfold State.takeSilence
  refine ⟨fun hwithin => ?_, fun hbeyond => ?_⟩
  · rw [if_neg (by omega)]
    rfl
  · rw [if_pos hbeyond]
    rfl

/-- Settles O21. -/
theorem reissueDueAndQuietUntil : Obligations.ReissueDueAndQuietUntil := by
  constructor
  · intro s i e due hs hdeferred hdue hreached hturn
    have hreissue : s.reissueReached i = some e := by simp [State.reissueReached, hs, hdeferred, hdue, reached?, hreached]
    rw [exec_reissueDue, execReissueDue, hreissue]
    exact inTurn_taken (noHanding_iff.mp hturn)
  · intro s n q hlow hhigh hquiet hreached hturn
    have hdue : s.quietReached n = true := by
      simp [State.quietReached, hquiet, quietUntil, reached?, hreached, nodeIndex, hlow, hhigh]
    rw [exec_quietUntilReached, execQuietUntilReached, hdue]
    exact inTurn_taken (noHanding_iff.mp hturn)

/-- Settles O22, by the state of the exchange. -/
theorem lifetimeEnd : Obligations.LifetimeEnd := by
  intro s i e hs harmed hreached hturn
  have hlifetime : s.lifetimeReached i = some e := by simp [State.lifetimeReached, hs, harmed, hreached]
  have htaken : exec (.lifetimeEnd i) s = .next (s.expire i e) := by
    rw [exec_lifetimeEnd, execLifetimeEnd, hlifetime]
    exact inTurn_taken (noHanding_iff.mp hturn)
  rw [htaken]
  unfold State.expire State.endExchange Config.broadcastNode
  refine ⟨fun hwaiting => ?_, fun hissued hfield => ?_, fun hissued hbroadcast => ?_, fun hheld => ?_⟩
  · rw [if_neg (by simp [hwaiting]), hwaiting]
    rfl
  · rw [if_neg (by simp [hfield]), hissued]
    simp only [hfield, if_false]
    rfl
  · rw [if_pos ⟨hissued, hbroadcast⟩]
    rfl
  · rcases hheld with hdeferred | hready
    · rw [if_neg (by simp [hdeferred]), hdeferred]
      rfl
    · rw [if_neg (by simp [hready]), hready]
      rfl

end Sys2Proof.Machine

/-! What images and results hold at their offsets (O46): reading a byte or a field of a concatenation, of a number's bytes and of
the optional parts, and then each layout from these. -/

namespace Sys2Proof.Machine

-- One theorem at a time, as in the tests: the memory limit of the check leaves room for few threads.
set_option Elab.async false

variable {a b : List Byte} {n w i : Nat}

/-! ## Bytes and fields of a concatenation -/

@[simp] theorem byteAt_append_left (h : i < a.length) : byteAt (a ++ b) i = byteAt a i := by
  rw [byteAt, byteAt, List.getD_append _ _ _ _ h]

@[simp] theorem byteAt_append_right (h : a.length ≤ i) : byteAt (a ++ b) i = byteAt b (i - a.length) := by
  rw [byteAt, byteAt, List.getD_append_right _ _ _ _ h]

@[simp] theorem fieldAt_append_left (h : i + w ≤ a.length) : fieldAt (a ++ b) i w = fieldAt a i w := by
  have hw : w ≤ (a.drop i).length := by rw [List.length_drop]; omega
  rw [fieldAt, fieldAt, List.drop_append_of_le_length (by omega), List.take_append_of_le_length hw]

@[simp] theorem fieldAt_append_right (h : a.length ≤ i) : fieldAt (a ++ b) i w = fieldAt b (i - a.length) w := by
  rw [fieldAt, fieldAt, List.drop_append, List.drop_eq_nil_of_le h, List.nil_append]

@[simp] theorem getD_append_left (h : i < a.length) : (a ++ b).getD i 0 = a.getD i 0 := List.getD_append _ _ _ _ h

@[simp] theorem getD_append_right (h : a.length ≤ i) : (a ++ b).getD i 0 = b.getD (i - a.length) 0 :=
  List.getD_append_right _ _ _ _ h

@[simp] theorem drop_append_right (h : a.length ≤ i) : (a ++ b).drop i = b.drop (i - a.length) := by
  rw [List.drop_append, List.drop_eq_nil_of_le h, List.nil_append]

@[simp] theorem byteAt_cons_zero (x : Byte) : byteAt (x :: a) 0 = x.toNat := rfl

@[simp] theorem byteAt_cons_succ (x : Byte) : byteAt (x :: a) (i + 1) = byteAt a i := rfl

@[simp] theorem fieldAt_cons_succ (x : Byte) : fieldAt (x :: a) (i + 1) w = fieldAt a i w := rfl

/-! ## The bytes of a number -/

@[simp] theorem byte_toNat_mod (n : Nat) : (byte n).toNat = n % 256 := rfl

@[simp] theorem boolByte_toNat (c : Bool) : (boolByte c).toNat = if c then 1 else 0 := by
  cases c <;> rfl

theorem beNat_append (a b : List Byte) : beNat (a ++ b) = beNat a * 256 ^ b.length + beNat b := by
  induction b using List.reverseRecOn with
  | nil => simp [beNat]
  | append_singleton b x ih =>
    have happ (c : List Byte) : beNat (c ++ [x]) = beNat c * 256 + x.toNat := by simp [beNat]
    rw [← List.append_assoc, happ, happ, ih, List.length_append, List.length_singleton, pow_succ]
    ring

/-- The bytes of a number spell it, as far as they reach (R1). -/
theorem beNat_beBytes (w n : Nat) : beNat (beBytes w n) = n % 256 ^ w := by
  induction w with
  | zero => simp [beBytes, beNat, Nat.mod_one]
  | succ w ih =>
    have hcons : beBytes (w + 1) n = [BitVec.ofNat 8 (n / 256 ^ w)] ++ beBytes w n := rfl
    rw [hcons, beNat_append, ih, length_beBytes, Nat.pow_succ, Nat.mod_mul]
    simp [beNat]
    ring

@[simp] theorem fieldAt_beBytes (w n : Nat) : fieldAt (beBytes w n) 0 w = n % 256 ^ w := by
  rw [fieldAt, List.drop_zero, List.take_of_length_le (by rw [length_beBytes]), beNat_beBytes]

@[simp] theorem toNat_mod_16 (x : BitVec 16) : x.toNat % 65536 = x.toNat := Nat.mod_eq_of_lt x.isLt
@[simp] theorem toNat_mod_32 (x : BitVec 32) : x.toNat % 4294967296 = x.toNat := Nat.mod_eq_of_lt x.isLt
@[simp] theorem toNat_mod_48 (x : BitVec 48) : x.toNat % 281474976710656 = x.toNat := Nat.mod_eq_of_lt x.isLt

/-! ## Optional parts -/

@[simp] theorem length_segmentBytes? (t : Option SegmentTime) : (segmentBytes? t).length = 5 := by
  cases t <;> simp [segmentBytes?, segmentBytes]

@[simp] theorem length_monoBytes? (t : Option Mono) : (monoBytes? t).length = 6 := by
  cases t <;> simp [monoBytes?]

@[simp] theorem length_signedBytes (r : Int) : (signedBytes r).length = 2 := length_beBytes 2 _

@[simp] theorem cycle_segmentBytes? (t : Option SegmentTime) :
    fieldAt (segmentBytes? t) 0 2 = (t.map fun t => t.cycle.toNat).getD 0 := by
  cases t with
  | none => rfl
  | some t => simp [segmentBytes?, segmentBytes]

@[simp] theorem phase_segmentBytes? (t : Option SegmentTime) :
    fieldAt (segmentBytes? t) 2 3 = (t.map fun t => t.phase % 16777216).getD 0 := by
  cases t with
  | none => rfl
  | some t => simp [segmentBytes?, segmentBytes]

@[simp] theorem fieldAt_monoBytes? (t : Option Mono) : fieldAt (monoBytes? t) 0 6 = (t.map BitVec.toNat).getD 0 := by
  cases t with
  | none => rfl
  | some t => simp [monoBytes?]

/-- Two bytes of a signed number spell it modulo 2^16 (R10). -/
@[simp] theorem fieldAt_signedBytes (r : Int) : (fieldAt (signedBytes r) 0 2 : Int) = r % 65536 := by
  rw [signedBytes, fieldAt_beBytes]
  omega

/-- The lowest indicator of a byte, and the others one place on. -/
@[simp] theorem getElem_bitsByte_zero (c : Bool) (l : List Bool) : (bitsByte (c :: l))[0] = c := by
  cases c <;> simp [bitsByte, boolByte]

@[simp] theorem getElem_bitsByte_succ (c : Bool) (l : List Bool) (h : i + 1 < 8) :
    (bitsByte (c :: l))[i + 1] = (bitsByte l)[i] := by
  have hbool : (boolByte c)[i + 1] = false := by cases c <;> simp [boolByte]
  simp [bitsByte, hbool]

@[simp] theorem map_getD_mod {α : Type} (f : α → Nat) (o : Option α) (m : Nat) :
    (o.map f).getD 0 % m = (o.map fun x => f x % m).getD 0 := by
  cases o <;> simp

@[simp] theorem map_getD_emod {α : Type} (f : α → Int) (o : Option α) (m : Int) :
    (o.map f).getD 0 % m = (o.map fun x => f x % m).getD 0 := by
  cases o <;> simp

@[simp] theorem originCode_lt (o : Origin) : originCode o % 256 = originCode o := by cases o <;> rfl
@[simp] theorem exchangeStateCode_lt (st : ExchangeState) : exchangeStateCode st % 256 = exchangeStateCode st := by
  cases st <;> rfl
@[simp] theorem outcomeCode_lt (o : OutcomeCode) : outcomeCode o % 256 = outcomeCode o := by cases o <;> rfl
@[simp] theorem startKindCode_lt (k : StartKind) : startKindCode k % 256 = startKindCode k := by cases k <;> rfl
@[simp] theorem edgeClassCode_lt (c : EdgeClass) : edgeClassCode c % 256 = edgeClassCode c := by cases c <;> rfl
@[simp] theorem nodeStateCode_lt (st : NodeState) : nodeStateCode st % 256 = nodeStateCode st := by cases st <;> rfl
@[simp] theorem noticeStateCode_lt (st : NoticeState) : noticeStateCode st % 256 = noticeStateCode st := by cases st <;> rfl
@[simp] theorem scheduleStateCode_lt (st : ScheduleState) : scheduleStateCode st % 256 = scheduleStateCode st := by
  cases st <;> rfl

/-! ## The layouts -/

theorem parametersResult_layout (p : Parameters) (staged : Option Nat) :
    (parametersResult p staged).length = 16 ∧ (parametersResult p staged).take 12 = parameterImage p ∧
    byteAt (parametersResult p staged) 12 = (if staged.isSome then 1 else 0) ∧
    fieldAt (parametersResult p staged) 13 3 = staged.getD 0 % 16777216 := by
  have hlength : (parameterImage p).length = 12 := by simp [parameterImage]
  refine ⟨by simp [parametersResult, hlength], ?_, by simp [parametersResult, hlength], by simp [parametersResult, hlength]⟩
  rw [parametersResult, List.append_assoc, ← hlength, List.take_left]

theorem timebaseResult_layout (s : State) :
    (timebaseResult s).length = 28 ∧ fieldAt (timebaseResult s) 0 6 = s.now.toNat ∧
    fieldAt (timebaseResult s) 6 2 = s.cycle.toNat ∧ fieldAt (timebaseResult s) 8 3 = s.phase % 16777216 ∧
    byteAt (timebaseResult s) 11 = startKindCode s.startKind ∧ byteAt (timebaseResult s) 12 = s.missRun % 256 ∧
    byteAt (timebaseResult s) 13 = (if s.lossRaised then 1 else 0) ∧
    (s.capture = none → (timebaseResult s).drop 14 = List.replicate 14 0) ∧
    ∀ c, s.capture = some c →
      byteAt (timebaseResult s) 14 = 1 ∧ fieldAt (timebaseResult s) 15 2 = c.cycle.toNat ∧
      fieldAt (timebaseResult s) 17 3 = c.phase % 16777216 ∧ fieldAt (timebaseResult s) 20 6 = c.time.toNat ∧
      byteAt (timebaseResult s) 26 = edgeClassCode c.classification ∧
      byteAt (timebaseResult s) 27 = (if c.currentCycle then 1 else 0) := by
  have hlength : (captureResult s.capture).length = 14 := by cases s.capture <;> simp [captureResult]
  refine ⟨by simp [timebaseResult, hlength], ?_, ?_, ?_, ?_, ?_, ?_, fun hnone => ?_, fun c hc => ?_⟩
  any_goals simp [timebaseResult]
  · simp [hnone, captureResult]
  · simp [hc, captureResult]

theorem exchangeImage_layout (e : Exchange) :
    (exchangeImage (some e)).length = 81 ∧
    byteAt (exchangeImage (some e)) 0 = exchangeStateCode e.state ∧
    byteAt (exchangeImage (some e)) 1 = originCode e.origin ∧
    (exchangeImage (some e)).getD 2 0 = originTag e.origin ∧
    byteAt (exchangeImage (some e)) 3 = e.node % 256 ∧ (exchangeImage (some e)).getD 4 0 = e.function ∧
    byteAt (exchangeImage (some e)) 5 = e.buffer.length % 256 ∧
    fieldAt (exchangeImage (some e)) 6 4 = e.admissionSeq.toNat ∧
    fieldAt (exchangeImage (some e)) 10 6 = e.admissionTime.toNat ∧
    fieldAt (exchangeImage (some e)) 16 2 = e.admissionCycle.toNat ∧
    byteAt (exchangeImage (some e)) 18 = e.issueCount % 256 ∧
    byteAt (exchangeImage (some e)) 19 = e.deferCount % 256 ∧
    byteAt (exchangeImage (some e)) 20 = e.silentCount % 256 ∧
    byteAt (exchangeImage (some e)) 21 = (e.outcome.map outcomeCode).getD 0 ∧
    ((exchangeImage (some e)).getD 22 0).getLsbD 0 = e.firstIssue.isSome ∧
    ((exchangeImage (some e)).getD 22 0).getLsbD 1 = e.lastCompletion.isSome ∧
    ((exchangeImage (some e)).getD 22 0).getLsbD 2 = e.answerDue.isSome ∧
    ((exchangeImage (some e)).getD 22 0).getLsbD 3 = e.reissueDue.isSome ∧
    ((exchangeImage (some e)).getD 22 0).getLsbD 4 = e.answer.isSome ∧
    ((exchangeImage (some e)).getD 22 0).getLsbD 5 = e.truncated ∧
    fieldAt (exchangeImage (some e)) 23 2 = ((e.firstIssue.map fun t => t.cycle.toNat).getD 0) ∧
    fieldAt (exchangeImage (some e)) 25 3 = ((e.firstIssue.map fun t => t.phase % 16777216).getD 0) ∧
    fieldAt (exchangeImage (some e)) 28 6 = ((e.lastCompletion.map BitVec.toNat).getD 0) ∧
    fieldAt (exchangeImage (some e)) 34 6 = (((e.answerDue <|> e.reissueDue).map BitVec.toNat).getD 0) ∧
    fieldAt (exchangeImage (some e)) 40 6 = e.lifetimeEnd.toNat ∧
    byteAt (exchangeImage (some e)) 46 = ((e.answer.map fun a => a.length % 256).getD 0) ∧
    (fieldAt (exchangeImage (some e)) 47 2 : Int) = ((e.answer.map fun a => a.residue % 65536).getD 0) ∧
    fieldAt (exchangeImage (some e)) 49 2 = ((e.answer.map fun a => a.time.cycle.toNat).getD 0) ∧
    fieldAt (exchangeImage (some e)) 51 3 = ((e.answer.map fun a => a.time.phase % 16777216).getD 0) ∧
    fieldAt (exchangeImage (some e)) 54 4 = ((e.answer.map fun a => a.latency % 4294967296).getD 0) ∧
    (exchangeImage (some e)).drop 58 = policyImage e.snapshot := by
  and_intros
  all_goals simp [exchangeImage, Function.comp_def]

theorem nodeImage_layout (n : NodeEntry) (parked released : Nat) :
    (nodeImage n parked released).length = 23 ∧ byteAt (nodeImage n parked released) 0 = nodeStateCode n.state ∧
    ((∃ i, (n.state = .occupied i ∨ n.state = .held i) ∧ byteAt (nodeImage n parked released) 1 = i.val) ∨
      (n.state = .idle ∨ ∃ q, n.state = .quiet q) ∧ byteAt (nodeImage n parked released) 1 = 255) ∧
    (nodeImage n parked released).getD 2 0 = n.issueNumber ∧
    (((nodeImage n parked released).getD 3 0).getLsbD 0 = true ↔ ∃ q, n.state = .quiet (some q)) ∧
    ((nodeImage n parked released).getD 3 0).getLsbD 1 = n.lastSequence.isSome ∧
    (∀ q, n.state = .quiet (some q) → fieldAt (nodeImage n parked released) 4 6 = q.toNat) ∧
    ((∀ q, n.state ≠ .quiet (some q)) → fieldAt (nodeImage n parked released) 4 6 = 0) ∧
    fieldAt (nodeImage n parked released) 10 4 = n.lastLatency % 4294967296 ∧
    fieldAt (nodeImage n parked released) 14 4 = n.maxLatency % 4294967296 ∧
    byteAt (nodeImage n parked released) 18 = n.credit % 256 ∧
    (nodeImage n parked released).getD 19 0 = n.lastSequence.getD 0 ∧
    byteAt (nodeImage n parked released) 20 = noticeStateCode n.notice ∧
    byteAt (nodeImage n parked released) 21 = parked % 256 ∧
    byteAt (nodeImage n parked released) 22 = released % 256 := by
  refine ⟨?_, ?_, ?_, ?_, ?_, ?_, fun q hq => ?_, fun hq => ?_, ?_, ?_, ?_, ?_, ?_, ?_, ?_⟩
  any_goals simp [nodeImage]
  · cases n.state with
    | idle => simp [nodeSlotByte]
    | quiet q => simp [nodeSlotByte]
    | occupied i => simp [nodeSlotByte, Nat.mod_eq_of_lt (show i.val < 256 by omega)]
    | held i => simp [nodeSlotByte, Nat.mod_eq_of_lt (show i.val < 256 by omega)]
  · cases n.state with
    | quiet q => cases q <;> simp [quietUntil]
    | _ => simp [quietUntil]
  · simp [hq, quietUntil]
  · cases hst : n.state with
    | quiet q =>
      cases q with
      | none => rfl
      | some q => exact absurd hst (hq q)
    | _ => rfl

theorem outcomeRecord_layout (i : Slot) (e : Exchange) :
    (outcomeRecord i e).length = 24 ∧ byteAt (outcomeRecord i e) 0 = originCode e.origin ∧
    byteAt (outcomeRecord i e) 1 = (e.outcome.map outcomeCode).getD 0 ∧ byteAt (outcomeRecord i e) 2 = i.val ∧
    byteAt (outcomeRecord i e) 3 = e.issueCount % 256 ∧ byteAt (outcomeRecord i e) 4 = e.deferCount % 256 ∧
    byteAt (outcomeRecord i e) 5 = e.silentCount % 256 ∧
    fieldAt (outcomeRecord i e) 6 2 = ((e.firstIssue.map fun t => t.cycle.toNat).getD 0) ∧
    fieldAt (outcomeRecord i e) 8 3 = ((e.firstIssue.map fun t => t.phase % 16777216).getD 0) ∧
    fieldAt (outcomeRecord i e) 11 2 = ((e.answer.map fun a => a.time.cycle.toNat).getD 0) ∧
    fieldAt (outcomeRecord i e) 13 3 = ((e.answer.map fun a => a.time.phase % 16777216).getD 0) ∧
    fieldAt (outcomeRecord i e) 16 4 = ((e.answer.map fun a => a.latency % 4294967296).getD 0) ∧
    (fieldAt (outcomeRecord i e) 20 2 : Int) = ((e.answer.map fun a => a.residue % 65536).getD 0) ∧
    byteAt (outcomeRecord i e) 22 = ((e.answer.map fun a => a.length % 256).getD 0) ∧
    ((outcomeRecord i e).getD 23 0).getLsbD 0 = e.firstIssue.isSome ∧
    ((outcomeRecord i e).getD 23 0).getLsbD 1 = e.answer.isSome ∧
    ((outcomeRecord i e).getD 23 0).getLsbD 2 = e.truncated := by
  have hslot : i.val % 256 = i.val := Nat.mod_eq_of_lt (by omega)
  and_intros
  all_goals simp [outcomeRecord, Function.comp_def, hslot]

@[simp] theorem length_fieldsImage {f : ScheduleFields} (h : f.template.length ≤ 32) : (fieldsImage f).length = 41 := by
  simp [fieldsImage]
  omega

theorem fieldsImage?_eq (f : Option ScheduleFields) : fieldsImage? f = (f.map fieldsImage).getD (List.replicate 41 0) := by
  cases f <;> rfl

theorem length_fieldsImage? {f : Option ScheduleFields} (h : ∀ g, f = some g → g.template.length ≤ 32) :
    (fieldsImage? f).length = 41 := by
  cases f with
  | none => rfl
  | some g => exact length_fieldsImage (h g rfl)

theorem scheduleResult_layout (e : ScheduleEntry) (htemplate : ∀ f, e.live = some f ∨ e.staged = some f → f.template.length ≤ 32) :
    (scheduleResult e).length = 113 ∧ byteAt (scheduleResult e) 0 = scheduleStateCode e.state ∧
    byteAt (scheduleResult e) 1 = (if e.fired then 1 else 0) ∧
    byteAt (scheduleResult e) 2 = (if e.openSlot.isSome then 1 else 0) ∧
    byteAt (scheduleResult e) 3 = (e.openSlot.map Fin.val).getD 0 ∧
    ((scheduleResult e).drop 4).take 41 = (e.live.map fieldsImage).getD (List.replicate 41 0) ∧
    byteAt (scheduleResult e) 45 = (if e.staged.isSome then 1 else 0) ∧
    ((scheduleResult e).drop 46).take 41 = (e.staged.map fieldsImage).getD (List.replicate 41 0) ∧
    fieldAt (scheduleResult e) 87 4 = e.fires.toNat ∧ fieldAt (scheduleResult e) 91 4 = e.overlapSkips.toNat ∧
    fieldAt (scheduleResult e) 95 4 = e.noSlotSkips.toNat ∧
    fieldAt (scheduleResult e) 99 4 = e.noPolicySkips.toNat ∧ fieldAt (scheduleResult e) 103 4 = e.cuts.toNat ∧
    byteAt (scheduleResult e) 107 = (if e.lastFire.isSome then 1 else 0) ∧
    fieldAt (scheduleResult e) 108 2 = ((e.lastFire.map fun t => t.cycle.toNat).getD 0) ∧
    fieldAt (scheduleResult e) 110 3 = ((e.lastFire.map fun t => t.phase % 16777216).getD 0) := by
  have hlive := length_fieldsImage? fun g hg => htemplate g (.inl hg)
  have hstaged := length_fieldsImage? fun g hg => htemplate g (.inr hg)
  have hslot : (fun i : Slot => i.val % 256) = Fin.val := funext fun i => Nat.mod_eq_of_lt (by omega)
  rw [← fieldsImage?_eq, ← fieldsImage?_eq]
  and_intros
  all_goals simp [scheduleResult, hlive, hstaged, hslot]

/-! ## Results made of equal records -/

theorem byteAt_eq_fieldAt (l : List Byte) (i : Nat) : byteAt l i = fieldAt l i 1 := by
  rw [byteAt, fieldAt, List.getD_eq_getElem?_getD, ← List.head?_drop]
  cases l.drop i <;> simp [beNat]

/-- In a row of records of one length a field stands at the offset of its record and its offset in it. -/
theorem fieldAt_flatMap {α : Type} {g : α → List Byte} {k : Nat} (hk : ∀ x, (g x).length = k) {off : Nat} (hin : off + w ≤ k)
    (l : List α) (i : Nat) (hi : i < l.length) : fieldAt (l.flatMap g) (k * i + off) w = fieldAt (g l[i]) off w := by
  induction l generalizing i with
  | nil => simp at hi
  | cons x l ih =>
    rw [List.flatMap_cons]
    cases i with
    | zero => rw [fieldAt_append_left (by rw [hk]; omega)]; simp
    | succ i =>
      have hoffset : k * (i + 1) + off - (g x).length = k * i + off := by rw [hk, Nat.mul_succ]; omega
      rw [fieldAt_append_right (by rw [hk, Nat.mul_succ]; omega), hoffset, ih i (by simpa using hi)]
      simp

theorem length_flatMap_of_length {α : Type} {g : α → List Byte} {k : Nat} (hk : ∀ x, (g x).length = k) (l : List α) :
    (l.flatMap g).length = k * l.length := by
  induction l with
  | nil => rfl
  | cons x l ih => rw [List.flatMap_cons, List.length_append, ih, hk, List.length_cons, Nat.mul_succ, Nat.add_comm]

/-- The record of one flag in the result of Read Flags (R14). -/
def flagBytes (r : FlagRecord) : List Byte := boolByte r.raised :: beBytes 2 r.stamp.toNat ++ [r.count]

theorem flagsResult_layout (event : BitVec 16) (flags : Vector FlagRecord 6) (f : Fin 6) :
    (flagsResult event flags).length = 26 ∧ fieldAt (flagsResult event flags) 0 2 = event.toNat ∧
    byteAt (flagsResult event flags) (2 + 4 * f.val) = (if flags[f].raised then 1 else 0) ∧
    fieldAt (flagsResult event flags) (3 + 4 * f.val) 2 = flags[f].stamp.toNat ∧
    byteAt (flagsResult event flags) (5 + 4 * f.val) = flags[f].count.toNat := by
  have hk (r : FlagRecord) : (flagBytes r).length = 4 := by simp [flagBytes]
  have hresult : flagsResult event flags = beBytes 2 event.toNat ++ flags.toList.flatMap flagBytes := rfl
  have hf : f.val < flags.toList.length := by simp
  have hfield (off w : Nat) (hin : off + w ≤ 4) :
      fieldAt (flagsResult event flags) (2 + (4 * f.val + off)) w = fieldAt (flagBytes flags[f]) off w := by
    rw [hresult, fieldAt_append_right (by simp), length_beBytes, Nat.add_sub_cancel_left, fieldAt_flatMap hk hin _ _ hf]
    simp
  refine ⟨?_, by simp [hresult], ?_, ?_, ?_⟩
  · rw [hresult, List.length_append, length_flatMap_of_length hk]
    simp
  · rw [byteAt_eq_fieldAt]
    refine (hfield 0 1 (by omega)).trans ?_
    rw [← byteAt_eq_fieldAt]
    simp [flagBytes]
  · rw [show 3 + 4 * f.val = 2 + (4 * f.val + 1) by omega, hfield 1 2 (by omega)]
    simp [flagBytes]
  · rw [byteAt_eq_fieldAt, show 5 + 4 * f.val = 2 + (4 * f.val + 3) by omega, hfield 3 1 (by omega), ← byteAt_eq_fieldAt]
    simp [flagBytes]

theorem countersResult_layout (counters : Vector (BitVec 32) 30) (i : Fin 30) :
    (countersResult counters).length = 120 ∧ fieldAt (countersResult counters) (4 * i.val) 4 = counters[i].toNat := by
  have hk (c : BitVec 32) : (beBytes 4 c.toNat).length = 4 := length_beBytes 4 _
  refine ⟨by rw [countersResult, length_flatMap_of_length hk]; simp, ?_⟩
  refine (fieldAt_flatMap hk (off := 0) (by omega) counters.toList i.val (by simp)).trans ?_
  simp

/-- Settles O46, record by record. -/
theorem resultLayouts : Obligations.ResultLayouts :=
  ⟨parametersResult_layout, flagsResult_layout, countersResult_layout, timebaseResult_layout, rfl, exchangeImage_layout,
    nodeImage_layout, outcomeRecord_layout, scheduleResult_layout⟩

end Sys2Proof.Machine

/-! The images of policies, parameters and schedule entries hold their fields at their offsets and are read back as they were built
(O59). -/

namespace Sys2Proof.Machine

-- One theorem at a time, as in the tests: the memory limit of the check leaves room for few threads.
set_option Elab.async false

/-! ## Parameters (R14) -/

theorem clockModeOf_eq_some {n : Nat} {m : ClockMode} : clockModeOf n = some m ↔ n = clockModeCode m := by
  unfold clockModeOf
  split <;> cases m <;> simp_all [clockModeCode]

theorem polarityOf_eq_some {n : Nat} {p : Polarity} : polarityOf n = some p ↔ n = polarityCode p := by
  unfold polarityOf
  split <;> cases p <;> simp_all [polarityCode]

theorem scheduleModeOf_eq_some {n : Nat} {m : ScheduleMode} : scheduleModeOf n = some m ↔ n = scheduleModeCode m := by
  unfold scheduleModeOf
  split <;> cases m <;> simp_all [scheduleModeCode]

@[simp] theorem clockModeCode_lt (m : ClockMode) : clockModeCode m % 256 = clockModeCode m := by cases m <;> rfl
@[simp] theorem polarityCode_lt (p : Polarity) : polarityCode p % 256 = polarityCode p := by cases p <;> rfl
@[simp] theorem scheduleModeCode_lt (m : ScheduleMode) : scheduleModeCode m % 256 = scheduleModeCode m := by cases m <;> rfl

@[simp] theorem length_parameterImage (p : Parameters) : (parameterImage p).length = 12 := by simp [parameterImage]

theorem parameterImage_layout {p : Parameters} (h : parametersValid p = true) :
    (parameterImage p).length = 12 ∧ byteAt (parameterImage p) 0 = p.scheduleReserve ∧
    byteAt (parameterImage p) 1 = p.acyclicShare ∧ byteAt (parameterImage p) 2 = clockModeCode p.clockMode ∧
    fieldAt (parameterImage p) 3 3 = p.cycleLength ∧ byteAt (parameterImage p) 6 = polarityCode p.syncPolarity ∧
    byteAt (parameterImage p) 7 = p.syncFilter ∧ fieldAt (parameterImage p) 8 2 = p.syncTolerance ∧
    byteAt (parameterImage p) 10 = p.syncMissLimit ∧ byteAt (parameterImage p) 11 = p.alertMask.toNat := by
  simp only [parametersValid, cycleLengthValid, Bool.and_eq_true, decide_eq_true_eq] at h
  obtain ⟨⟨⟨⟨⟨hreserve, hshare⟩, hlength⟩, hfilter⟩, htolerance⟩, hlimit⟩ := h
  have hmask := p.alertMask.isLt
  and_intros
  all_goals simp [parameterImage]
  all_goals omega

/-- The low bytes of a number do not see what stands above them (R1). -/
theorem beBytes_add_mul (w n k : Nat) : beBytes w (k * 256 ^ w + n) = beBytes w n := by
  induction w generalizing k with
  | zero => rfl
  | succ w ih =>
    have hsplit : k * 256 ^ (w + 1) + n = (k * 256) * 256 ^ w + n := by rw [pow_succ]; ring
    have hdiv : (k * 256 * 256 ^ w + n) / 256 ^ w = k * 256 + n / 256 ^ w := by
      rw [Nat.mul_comm, Nat.mul_add_div (by positivity)]
    rw [beBytes, beBytes, hsplit, ih, hdiv]
    congr 1
    apply BitVec.eq_of_toNat_eq
    simp only [BitVec.toNat_ofNat]
    omega

theorem beNat_cons (x : Byte) (l : List Byte) : beNat (x :: l) = x.toNat * 256 ^ l.length + beNat l := by
  have h := beNat_append [x] l
  simpa [beNat] using h

theorem beNat_lt (l : List Byte) : beNat l < 256 ^ l.length := by
  induction l with
  | nil => simp [beNat]
  | cons x l ih =>
    rw [beNat_cons, List.length_cons, pow_succ]
    have := x.isLt
    nlinarith

/-- Bytes are spelled by the number they spell (R1). -/
theorem beBytes_beNat (l : List Byte) : beBytes l.length (beNat l) = l := by
  induction l with
  | nil => rfl
  | cons x l ih =>
    have hhigh : (x.toNat * 256 ^ l.length + beNat l) / 256 ^ l.length = x.toNat := by
      rw [Nat.mul_comm, Nat.mul_add_div (by positivity), Nat.div_eq_of_lt (beNat_lt l), Nat.add_zero]
    rw [List.length_cons, beBytes, beNat_cons, hhigh, beBytes_add_mul, ih]
    simp

/-- The image of what is read from twelve bytes is the twelve bytes (R14). -/
theorem parameterImage_of_bytes {bytes : List Byte} {p : Parameters} (hlen : bytes.length = 12) (hmask : byteAt bytes 11 ≤ 63)
    (hmode : byteAt bytes 2 = clockModeCode p.clockMode) (hpolarity : byteAt bytes 6 = polarityCode p.syncPolarity)
    (hp : p = { p with
      scheduleReserve := byteAt bytes 0, acyclicShare := byteAt bytes 1, cycleLength := fieldAt bytes 3 3,
      syncFilter := byteAt bytes 7, syncTolerance := fieldAt bytes 8 2, syncMissLimit := byteAt bytes 10,
      alertMask := BitVec.ofNat 6 (byteAt bytes 11) }) : parameterImage p = bytes := by
  match bytes, hlen with
  | [b0, b1, b2, b3, b4, b5, b6, b7, b8, b9, b10, b11], _ =>
    have hlength : beBytes 3 (beNat [b3, b4, b5]) = [b3, b4, b5] := beBytes_beNat [b3, b4, b5]
    have htolerance : beBytes 2 (beNat [b8, b9]) = [b8, b9] := beBytes_beNat [b8, b9]
    have hmaskByte : (b11.setWidth 6).setWidth 8 = b11 := by
      have hle : b11.toNat ≤ 63 := hmask
      apply BitVec.eq_of_toNat_eq
      simp
      omega
    rw [hp]
    simp only [parameterImage, ← hmode, ← hpolarity]
    simp [byteAt, fieldAt, hlength, htolerance, hmaskByte]

/-- Parameters read from exactly their own image, if they are in range (R14, R29). -/
theorem parametersOfImage_eq_some {bytes : List Byte} {p : Parameters} :
    parametersOfImage bytes = some p ↔ parameterImage p = bytes ∧ parametersValid p = true := by
  constructor
  · intro h
    unfold parametersOfImage at h
    split at h
    · cases h
    · next hlen =>
      split at h
      · cases h
      · next hmask =>
        split at h
        · next mode polarity hmode hpolarity =>
          dsimp only at h
          split at h
          · next hvalid =>
            cases h
            exact ⟨parameterImage_of_bytes (not_not.mp hlen) (by omega) (clockModeOf_eq_some.mp hmode)
              (polarityOf_eq_some.mp hpolarity) rfl, hvalid⟩
          · cases h
        · cases h
  · rintro ⟨rfl, hvalid⟩
    obtain ⟨hlength, hreserve, hshare, hmode, hcycle, hpolarity, hfilter, htolerance, hlimit, hmask⟩ := parameterImage_layout hvalid
    have hmaskLt := p.alertMask.isLt
    unfold parametersOfImage
    rw [if_neg (not_not.mpr hlength), if_neg (by rw [hmask]; omega), clockModeOf_eq_some.mpr hmode, polarityOf_eq_some.mpr hpolarity]
    simp [hreserve, hshare, hcycle, hfilter, htolerance, hlimit, hmask, hvalid]

/-! ## Schedule entries (R18) -/

theorem entryIndexOf_eq_some {n : Nat} {k : EntryIndex} : entryIndexOf n = some k ↔ n = k.val := by
  unfold entryIndexOf
  split
  · next h => simp [Fin.ext_iff]
  · next h => simp; omega

theorem scheduleFieldsValid_iff {f : ScheduleFields} :
    scheduleFieldsValid f = true ↔
      (1 ≤ f.node ∧ f.node ≤ 62) ∧ (1 ≤ f.divisor ∧ f.divisor ≤ 64 ∧ f.offset < f.divisor) ∧ f.template.length ≤ 32 := by
  simp only [scheduleFieldsValid, Bool.and_eq_true, decide_eq_true_eq, and_assoc]

/-- A load argument is the index and the entry image up to the template's end (R18). -/
theorem loadEntryImage_eq (k : EntryIndex) (f : ScheduleFields) :
    loadEntryImage k f = byte k.val :: (fieldsImage f).take (9 + f.template.length) := by
  have hlength : 9 + f.template.length =
      ([byte (scheduleModeCode f.mode), byte f.node, f.function] ++ beBytes 3 f.phase ++
        [byte f.divisor, byte f.offset, byte f.template.length] ++ f.template).length := by
    simp
    omega
  rw [fieldsImage, hlength, List.take_left]
  rfl

theorem fieldsImage_layout {f : ScheduleFields} (h : scheduleFieldsValid f = true) (hphase : f.phase < 16777216) :
    (fieldsImage f).length = 41 ∧ byteAt (fieldsImage f) 0 = scheduleModeCode f.mode ∧
    byteAt (fieldsImage f) 1 = f.node ∧ (fieldsImage f).getD 2 0 = f.function ∧ fieldAt (fieldsImage f) 3 3 = f.phase ∧
    byteAt (fieldsImage f) 6 = f.divisor ∧ byteAt (fieldsImage f) 7 = f.offset ∧
    byteAt (fieldsImage f) 8 = f.template.length ∧
    (fieldsImage f).drop 9 = f.template ++ List.replicate (32 - f.template.length) 0 ∧
    ∀ k : EntryIndex, loadEntryImage k f = byte k.val :: (fieldsImage f).take (9 + f.template.length) := by
  obtain ⟨⟨hnode, hnode'⟩, ⟨hdivisor, hdivisor', hoffset⟩, htemplate⟩ := scheduleFieldsValid_iff.mp h
  refine ⟨length_fieldsImage htemplate, ?_, ?_, ?_, ?_, ?_, ?_, ?_, ?_, fun k => loadEntryImage_eq k f⟩
  all_goals simp [fieldsImage]
  all_goals omega

theorem loadEntryImage_layout (k : EntryIndex) {f : ScheduleFields} (h : scheduleFieldsValid f = true) (hphase : f.phase < 16777216) :
    (loadEntryImage k f).length = 10 + f.template.length ∧ byteAt (loadEntryImage k f) 0 = k.val ∧
    byteAt (loadEntryImage k f) 1 = scheduleModeCode f.mode ∧ byteAt (loadEntryImage k f) 2 = f.node ∧
    byteAt (loadEntryImage k f) 3 = f.function.toNat ∧ fieldAt (loadEntryImage k f) 4 3 = f.phase ∧
    byteAt (loadEntryImage k f) 7 = f.divisor ∧ byteAt (loadEntryImage k f) 8 = f.offset ∧
    byteAt (loadEntryImage k f) 9 = f.template.length ∧ (loadEntryImage k f).drop 10 = f.template := by
  obtain ⟨⟨hnode, hnode'⟩, ⟨hdivisor, hdivisor', hoffset⟩, htemplate⟩ := scheduleFieldsValid_iff.mp h
  have hindex := k.isLt
  and_intros
  all_goals simp [loadEntryImage]
  all_goals omega

/-- The image of what is read from a load argument is its bytes (R18). -/
theorem loadEntryImage_of_bytes {bytes : List Byte} {k : EntryIndex} {f : ScheduleFields} (hlen : bytes.length = 10 + byteAt bytes 9)
    (hindex : byteAt bytes 0 = k.val) (hmode : byteAt bytes 1 = scheduleModeCode f.mode)
    (hf : f = { f with
      node := byteAt bytes 2, function := byte (byteAt bytes 3), phase := fieldAt bytes 4 3, divisor := byteAt bytes 7,
      offset := byteAt bytes 8, template := bytes.drop 10 }) : loadEntryImage k f = bytes := by
  match bytes, hlen with
  | b0 :: b1 :: b2 :: b3 :: b4 :: b5 :: b6 :: b7 :: b8 :: b9 :: rest, hlen =>
    have hphase : beBytes 3 (beNat [b4, b5, b6]) = [b4, b5, b6] := beBytes_beNat [b4, b5, b6]
    have hlength : rest.length = b9.toNat := by simpa [Nat.add_comm 10] using hlen
    rw [hf]
    simp only [loadEntryImage, ← hmode, ← hindex]
    simp [fieldAt, hphase, hlength]

/-- A load argument reads as exactly the entry and fields whose image it is, if they are in range (R18, R163). -/
theorem loadEntryOfImage_some {bytes : List Byte} {k : EntryIndex} {f : ScheduleFields}
    (h : loadEntryOfImage bytes = some (k, f)) : loadEntryImage k f = bytes ∧ scheduleFieldsValid f = true := by
  unfold loadEntryOfImage at h
  split at h
  · cases h
  · next hlen =>
    split at h
    · next index mode hindex hmode =>
      dsimp only at h
      split at h
      · next hvalid =>
        cases h
        exact ⟨loadEntryImage_of_bytes (by omega) (entryIndexOf_eq_some.mp hindex) (scheduleModeOf_eq_some.mp hmode) rfl, hvalid⟩
      · cases h
    · cases h

theorem loadEntryOfImage_image (k : EntryIndex) {f : ScheduleFields} (h : scheduleFieldsValid f = true) (hphase : f.phase < 16777216) :
    loadEntryOfImage (loadEntryImage k f) = some (k, f) := by
  obtain ⟨hlength, hindex, hmode, hnode, hfunction, hphaseField, hdivisor, hoffset, hcount, htemplate⟩ := loadEntryImage_layout k h hphase
  have hbound := (scheduleFieldsValid_iff.mp h).2.2
  unfold loadEntryOfImage
  rw [if_neg (by rw [hlength, hcount]; omega), entryIndexOf_eq_some.mpr hindex, scheduleModeOf_eq_some.mpr hmode]
  simp [hnode, hfunction, hphaseField, hdivisor, hoffset, htemplate, h]

/-! ## Policies (R15) -/

theorem policyImage_layout {p : Policy} (h : policyValid p = true) :
    (policyImage p).length = 23 ∧ byteAt (policyImage p) 0 = p.key.node ∧
    byteAt (policyImage p) 1 = (if p.key.function.isSome then 0 else 1) ∧
    (policyImage p).getD 2 0 = p.key.function.getD 0 ∧ byteAt (policyImage p) 3 = p.nominal ∧
    byteAt (policyImage p) 4 = p.minimum ∧ byteAt (policyImage p) 5 = p.maximum ∧
    byteAt (policyImage p) 6 = longActionCode p.longAction ∧ byteAt (policyImage p) 7 = shortActionCode p.shortAction ∧
    fieldAt (policyImage p) 8 4 = p.answerWindow ∧ fieldAt (policyImage p) 12 4 = p.lifetime ∧
    byteAt (policyImage p) 16 = p.deferLimit ∧ byteAt (policyImage p) 17 = p.silentLimit ∧
    fieldAt (policyImage p) 18 4 = p.baseDelay ∧ byteAt (policyImage p) 22 = backoffCode p.backoff := by
  obtain ⟨hkey, hnominal, hminimum, hmaximum, hlong, hshort, hwindow, hlifetime, hdefer, hsilent, hdelay, hbackoff⟩ :=
    (policyImage_eq_iff (length_policyImage p) h).mp rfl
  have hnode := policyValid_node h
  refine ⟨length_policyImage p, ?_, ?_, ?_, hnominal.symm, hminimum.symm, hmaximum.symm, hlong.symm, hshort.symm, hwindow.symm,
    hlifetime.symm, hdefer.symm, hsilent.symm, hdelay.symm, hbackoff.symm⟩
  · cases hfunction : p.key.function <;> simp [policyImage, keyImage, hfunction] <;> omega
  · cases hfunction : p.key.function <;> simp [policyImage, keyImage, hfunction]
  · cases hfunction : p.key.function <;> simp [policyImage, keyImage, hfunction]

/-- Settles O59: each image read at its offsets, and each reading accepting exactly the images in range. -/
theorem imagesRoundTrip : Obligations.ImagesRoundTrip :=
  ⟨fun _ => policyImage_layout, fun _ => parameterImage_layout, fun _ => fieldsImage_layout,
    fun _ h => policyOfImage_eq_some.mpr ⟨rfl, h⟩, fun _ _ => policyOfImage_eq_some.mp,
    fun _ h => keyOfImage_eq_some.mpr ⟨rfl, h⟩, fun _ _ => keyOfImage_eq_some.mp,
    fun _ h => parametersOfImage_eq_some.mpr ⟨rfl, h⟩, fun _ _ => parametersOfImage_eq_some.mp,
    fun k _ => loadEntryOfImage_image k, fun _ _ _ => loadEntryOfImage_some⟩

end Sys2Proof.Machine

/-! The directives (chapter 2 and those of chapters 3 to 11), beside the ones of the policies: what is judged before one executes
(O43), those that read (O45), Set Parameters (O47), Cancel Exchange (O51), and those of the Cycle Schedule (O53, O54). -/

namespace Sys2Proof.Machine

-- One theorem at a time, as in the tests: the memory limit of the check leaves room for few threads.
set_option Elab.async false

variable {s : State} {d : Frame} {code : Byte}

/-! ## Arguments -/

theorem noArguments_of_length {body : State → Reply} {arguments : List Byte} (h : arguments.length ∉ [0]) :
    noArguments body arguments s = Reply.only s .badArgument := by
  cases arguments with
  | nil => simp at h
  | cons => rfl

theorem oneByte_of_length {α : Type} {read : Nat → Option α} {body : α → State → Reply} {arguments : List Byte}
    (h : arguments.length ∉ [1]) : oneByte read body arguments s = Reply.only s .badArgument :=
  if_pos (by simpa using h)

theorem oneByte_of_read {α : Type} {read : Nat → Option α} {body : α → State → Reply} {b : Byte} {a : α}
    (h : read b.toNat = some a) : oneByte read body [b] s = body a s := by
  simp [oneByte, h]

theorem oneByte_of_unread {α : Type} {read : Nat → Option α} {body : α → State → Reply} {b : Byte}
    (h : read b.toNat = none) : oneByte read body [b] s = Reply.only s .badArgument := by
  simp [oneByte, h]

theorem fieldNodeOf_of_range {n : Nat} (hlow : 1 ≤ n) (hhigh : n ≤ 62) : fieldNodeOf n = some n := if_pos ⟨hlow, hhigh⟩

theorem fieldNodeOf_eq_none {n : Nat} (h : n < 1 ∨ 62 < n) : fieldNodeOf n = none := if_neg (by omega)

theorem slotOf_of_val {n : Nat} {i : Slot} (h : n = i.val) : slotOf n = some i := by
  subst h
  exact dif_pos i.isLt

theorem slotOf_eq_none {n : Nat} (h : n < 0 ∨ 23 < n) : slotOf n = none := dif_neg (by omega)

theorem entryIndexOf_eq_none {n : Nat} (h : n < 0 ∨ 31 < n) : entryIndexOf n = none := dif_neg (by omega)

theorem headTagOf_eq_none {n : Nat} (h : n < 0 ∨ 63 < n) : headTagOf n = none := if_neg (by omega)

/-- A directive whose body rejects its argument answers BAD ARGUMENT (R25). -/
theorem directive_badArgument {body : List Byte → State → Reply} (h : s.directiveFirst d code)
    (hbody : body d.payload s.taken = Reply.only s.taken .badArgument) :
    s.directive code body = .next (s.acknowledged d .badArgument []) :=
  directive_acknowledged h hbody

/-! ## Counters -/

/-- Counters rise in any order (R37). -/
theorem tally_comm (s : State) (c e : Counter) : (s.tally c).tally e = (s.tally e).tally c := by
  by_cases h : c = e
  · rw [h]
  · have hne : (counterPosition c).val ≠ (counterPosition e).val := fun h' => h (counterPosition_inj (Fin.ext h'))
    unfold State.tally
    simp only [Fin.getElem_fin, Vector.getElem_set_ne _ _ hne, Vector.getElem_set_ne _ _ hne.symm]
    rw [Vector.set_comm _ _ hne]

/-! ## Unknown codes and Lengths (R25) -/

theorem parametersOfImage_of_length {bytes : List Byte} (h : bytes.length ∉ [12]) : parametersOfImage bytes = none :=
  if_pos (by simpa using h)

theorem policyOfImage_of_length {bytes : List Byte} (h : bytes.length ∉ [23]) : policyOfImage bytes = none :=
  if_pos (by simpa using h)

theorem keyOfImage_of_length {bytes : List Byte} (h : bytes.length ∉ [3]) : keyOfImage bytes = none :=
  if_pos (by simpa using h)

theorem loadEntryOfImage_of_length {bytes : List Byte} (h : bytes.length ∉ (List.range 33).map (10 + ·)) :
    loadEntryOfImage bytes = none := by
  refine if_pos ?_
  simp only [List.mem_map, List.mem_range, not_exists, not_and] at h
  by_contra hin
  exact h (bytes.length - 10) (by omega) (by omega)

theorem clearArgumentValid_of_length {bytes : List Byte} (h : bytes.length ∉ [3, 6, 9, 12, 15, 18]) :
    clearArgumentValid bytes = false := by
  have hlength : ¬ (bytes.length % 3 = 0 ∧ 3 ≤ bytes.length ∧ bytes.length ≤ 18) := by
    simp only [List.mem_cons, List.not_mem_nil, or_false, not_or] at h
    omega
  simp [clearArgumentValid, hlength]

/-- A Length that the index does not allow for a directive is a bad argument (R25). -/
theorem badLength (c : Instr) (code : Byte) (lengths : List Nat)
    (hrow : (c, code, lengths) ∈
      ([(.fetchIdentity, 0x01, [0]), (.setParameters, 0x02, [12]), (.readParameters, 0x03, [0]),
        (.readFlags, 0x04, [0]), (.clearFlags, 0x05, [3, 6, 9, 12, 15, 18]), (.readCounters, 0x06, [0]),
        (.readTimebase, 0x07, [0]), (.loadPolicy, 0x08, [23]), (.dropPolicy, 0x09, [3]), (.readPolicy, 0x0A, [3]),
        (.readExchange, 0x10, [1]), (.readNode, 0x11, [1]), (.cancelExchange, 0x12, [1]), (.cancelNode, 0x13, [1]),
        (.postGrant, 0x18, [2]), (.withdrawGrant, 0x19, [1]), (.discardParked, 0x1A, [1]),
        (.loadScheduleEntry, 0x20, (List.range 33).map (10 + ·)), (.armEntry, 0x21, [1]), (.disarmEntry, 0x22, [1]),
        (.clearEntry, 0x23, [1]), (.readScheduleEntry, 0x24, [1]), (.restart, 0x3F, [0])] :
          List (Instr × Byte × List Nat)))
    (h : s.directiveFirst d code) (hlength : d.payload.length ∉ lengths) :
    exec c s = .next (s.acknowledged d .badArgument []) := by
  have none {body : State → Reply} {code : Byte} (h : s.directiveFirst d code) (hlength : d.payload.length ∉ [0]) :
      s.directive code (noArguments body) = .next (s.acknowledged d .badArgument []) :=
    directive_badArgument h (noArguments_of_length hlength)
  have one {α : Type} {read : Nat → Option α} {body : α → State → Reply} {code : Byte} (h : s.directiveFirst d code)
      (hlength : d.payload.length ∉ [1]) : s.directive code (oneByte read body) = .next (s.acknowledged d .badArgument []) :=
    directive_badArgument h (oneByte_of_length hlength)
  simp only [List.mem_cons, List.not_mem_nil, or_false, Prod.mk.injEq] at hrow
  obtain ⟨rfl, rfl, rfl⟩ | ⟨rfl, rfl, rfl⟩ | ⟨rfl, rfl, rfl⟩ | ⟨rfl, rfl, rfl⟩ | ⟨rfl, rfl, rfl⟩ | ⟨rfl, rfl, rfl⟩ |
    ⟨rfl, rfl, rfl⟩ | ⟨rfl, rfl, rfl⟩ | ⟨rfl, rfl, rfl⟩ | ⟨rfl, rfl, rfl⟩ | ⟨rfl, rfl, rfl⟩ | ⟨rfl, rfl, rfl⟩ |
    ⟨rfl, rfl, rfl⟩ | ⟨rfl, rfl, rfl⟩ | ⟨rfl, rfl, rfl⟩ | ⟨rfl, rfl, rfl⟩ | ⟨rfl, rfl, rfl⟩ | ⟨rfl, rfl, rfl⟩ |
    ⟨rfl, rfl, rfl⟩ | ⟨rfl, rfl, rfl⟩ | ⟨rfl, rfl, rfl⟩ | ⟨rfl, rfl, rfl⟩ | ⟨rfl, rfl, rfl⟩ := hrow
  · exact none h hlength
  · exact directive_badArgument h (by rw [setParametersBody, parametersOfImage_of_length hlength])
  · exact none h hlength
  · exact none h hlength
  · exact directive_badArgument h (by rw [clearFlagsBody, clearArgumentValid_of_length hlength]; rfl)
  · exact none h hlength
  · exact none h hlength
  · exact directive_badArgument h (by rw [loadPolicyBody, policyOfImage_of_length hlength])
  · exact directive_badArgument h (by rw [dropPolicyBody, keyOfImage_of_length hlength])
  · exact directive_badArgument h (by rw [readPolicyBody, keyOfImage_of_length hlength])
  · exact one h hlength
  · exact one h hlength
  · exact one h hlength
  · exact one h hlength
  · exact directive_badArgument h (if_pos (by simpa using hlength))
  · exact one h hlength
  · exact one h hlength
  · exact directive_badArgument h (by rw [loadScheduleEntryBody, loadEntryOfImage_of_length hlength])
  · exact one h hlength
  · exact one h hlength
  · exact one h hlength
  · exact one h hlength
  · exact none h hlength

/-- An argument byte out of the range of its directive is a bad argument (R17, R25). -/
theorem badByte (c : Instr) (code b : Byte) (low high : Nat)
    (hrow : (c, code, low, high) ∈
      ([(.readExchange, 0x10, 0, 23), (.readNode, 0x11, 1, 62), (.cancelExchange, 0x12, 0, 63),
        (.cancelNode, 0x13, 1, 62), (.withdrawGrant, 0x19, 1, 62), (.discardParked, 0x1A, 1, 62),
        (.armEntry, 0x21, 0, 31), (.disarmEntry, 0x22, 0, 31), (.clearEntry, 0x23, 0, 31),
        (.readScheduleEntry, 0x24, 0, 31)] : List (Instr × Byte × Nat × Nat)))
    (h : s.directiveFirst d code) (hpayload : d.payload = [b]) (hrange : b.toNat < low ∨ high < b.toNat) :
    exec c s = .next (s.acknowledged d .badArgument []) := by
  have one {α : Type} {read : Nat → Option α} {body : α → State → Reply} {code : Byte} (h : s.directiveFirst d code)
      (hread : read b.toNat = none) : s.directive code (oneByte read body) = .next (s.acknowledged d .badArgument []) :=
    directive_badArgument h (by rw [hpayload, oneByte_of_unread hread])
  simp only [List.mem_cons, List.not_mem_nil, or_false, Prod.mk.injEq] at hrow
  obtain ⟨rfl, rfl, rfl, rfl⟩ | ⟨rfl, rfl, rfl, rfl⟩ | ⟨rfl, rfl, rfl, rfl⟩ | ⟨rfl, rfl, rfl, rfl⟩ | ⟨rfl, rfl, rfl, rfl⟩ |
    ⟨rfl, rfl, rfl, rfl⟩ | ⟨rfl, rfl, rfl, rfl⟩ | ⟨rfl, rfl, rfl, rfl⟩ | ⟨rfl, rfl, rfl, rfl⟩ | ⟨rfl, rfl, rfl, rfl⟩ := hrow
  · exact one h (slotOf_eq_none hrange)
  · exact one h (fieldNodeOf_eq_none hrange)
  · exact one h (headTagOf_eq_none hrange)
  · exact one h (fieldNodeOf_eq_none hrange)
  · exact one h (fieldNodeOf_eq_none hrange)
  · exact one h (fieldNodeOf_eq_none hrange)
  · exact one h (entryIndexOf_eq_none hrange)
  · exact one h (entryIndexOf_eq_none hrange)
  · exact one h (entryIndexOf_eq_none hrange)
  · exact one h (entryIndexOf_eq_none hrange)

theorem postGrantBody_badArgument {node k : Byte} (h : node = 0 ∨ 62 < node.toNat ∨ k = 0 ∨ 15 < k.toNat) :
    postGrantBody [node, k] s = Reply.only s .badArgument := by
  have hzero (x : Byte) : x = 0 ↔ x.toNat = 0 := BitVec.toNat_inj.symm
  rw [hzero, hzero] at h
  unfold postGrantBody
  rw [if_neg (by simp)]
  split
  · next n hn =>
    obtain ⟨hlow, hhigh⟩ := fieldNodeOf_range hn
    have hnode : n = node.toNat := by
      unfold fieldNodeOf at hn
      split at hn
      · exact (Option.some.inj hn).symm
      · cases hn
    refine if_pos ?_
    change k.toNat = 0 ∨ 15 < k.toNat
    omega
  · rfl

/-- Settles O43: the table of Lengths, the table of ranges, and Post Grant's two bytes. -/
theorem directiveJudgement : Obligations.DirectiveJudgement := by
  refine ⟨fun s d h hcode => ?_, fun s d c code lengths => badLength c code lengths,
    fun s d c code b low high => badByte c code b low high, fun s d node k h hpayload hrange => ?_⟩
  · obtain ⟨hfirst, hkind, -, hplace⟩ := h
    obtain ⟨rest, hintake⟩ := List.head?_eq_some_iff.mp hfirst
    have htest : (!directiveCodes.contains d.function) = true := by
      rw [Bool.not_eq_true', List.contains_eq_mem, decide_eq_false_iff_not]
      exact hcode
    have htaken := takeDirective_taken (test := fun code => !directiveCodes.contains code)
      (body := fun _ s => Reply.only (s.tally .unknownDirectives) .unknownDirective) hintake hkind htest (s.controlFree_iff.mpr hplace)
    refine htaken.trans (congrArg Host.Outcome.next ?_)
    change State.place ((State.tally { s with intake := s.intake.tail } .directivesTaken).tally .unknownDirectives) _ = _
    rw [tally_comm]
    rfl
  · exact directive_badArgument (body := postGrantBody) h (by rw [hpayload, postGrantBody_badArgument hrange])

/-! ## The directives that read -/

theorem directive_reads {body : State → Reply} {result : List Byte} (h : s.directiveFirst d code) (hpayload : d.payload = [])
    (hbody : body s.taken = Reply.done s.taken result) : s.directive code (noArguments body) = .next (s.acknowledged d .done result) :=
  directive_acknowledged h (by rw [hpayload, noArguments_nil, hbody]; rfl)

theorem directive_reads_byte {α : Type} {read : Nat → Option α} {body : α → State → Reply} {result : List Byte} {b : Byte} {a : α}
    (h : s.directiveFirst d code) (hpayload : d.payload = [b]) (hread : read b.toNat = some a)
    (hbody : body a s.taken = Reply.done s.taken result) :
    s.directive code (oneByte read body) = .next (s.acknowledged d .done result) :=
  directive_acknowledged h (by rw [hpayload, oneByte_of_read hread, hbody]; rfl)

theorem storeCount_eq (s : State) (n : Nat) (released : Bool) :
    s.storeCount n released = (List.finRange 16).countP fun k => (s.stored k).any fun r => r.node == n && r.released == released := by
  unfold State.storeCount allEntries
  congr
  funext k
  cases s.stored k <;> rfl

/-- Settles O45: the record is read from the taken state, which differs from the state before in the intake and in one counter. -/
theorem readDirectives : Obligations.ReadDirectives := by
  intro s d
  refine ⟨fun h hp => ?_, fun h hp => ?_, fun h hp => ?_, fun h hp => ?_, fun b i h hp hb => ?_,
    fun b parked released h hp hlow hhigh hparked hreleased => ?_, fun b k h hp hb => ?_⟩
  · exact directive_reads h hp rfl
  · exact directive_reads h hp rfl
  · exact directive_reads h hp rfl
  · exact directive_reads h hp rfl
  · exact directive_reads_byte h hp (slotOf_of_val hb) rfl
  · refine directive_reads_byte h hp (fieldNodeOf_of_range hlow hhigh) ?_
    have hcounts : s.storeCount b.toNat false = parked ∧ s.storeCount b.toNat true = released := by
      rw [storeCount_eq, storeCount_eq, hparked, hreleased]
      simp
    rw [← hcounts.1, ← hcounts.2]
    rfl
  · exact directive_reads_byte h hp (entryIndexOf_eq_some.mpr hb) rfl

end Sys2Proof.Machine

/-! Set Parameters (O47), Cancel Exchange (O51), the directives of the Cycle Schedule (O53, O54), the grants (O30, O31) and Restart
(O55). -/

namespace Sys2Proof.Machine

-- One theorem at a time, as in the tests: the memory limit of the check leaves room for few threads.
set_option Elab.async false

variable {s : State} {d : Frame} {code : Byte}

theorem exec_setParameters (s : State) : exec .setParameters s = s.directive 0x02 setParametersBody := rfl
theorem exec_cancelExchange (s : State) : exec .cancelExchange s = s.directive 0x12 (oneByte headTagOf cancelExchangeBody) := rfl
theorem exec_cancelNode (s : State) : exec .cancelNode s = s.directive 0x13 (oneByte fieldNodeOf cancelNodeBody) := rfl
theorem exec_postGrant (s : State) : exec .postGrant s = s.directive 0x18 postGrantBody := rfl
theorem exec_loadScheduleEntry (s : State) : exec .loadScheduleEntry s = s.directive 0x20 loadScheduleEntryBody := rfl
theorem exec_armEntry (s : State) : exec .armEntry s = s.directive 0x21 (oneByte entryIndexOf armEntryBody) := rfl
theorem exec_disarmEntry (s : State) : exec .disarmEntry s = s.directive 0x22 (oneByte entryIndexOf disarmEntryBody) := rfl

/-- A directive that executes to a state that its ACKNOWLEDGE turns into the one of another state (R24). -/
theorem directive_executes {body : List Byte → State → Reply} {r : Reply} {u : State} (h : s.directiveFirst d code)
    (hbody : body d.payload s.taken = r) (hu : r.state.place (acknowledgeFrame d r.status r.result) = u) :
    s.directive code body = .next u := by
  rw [directive_of_first h, hbody, hu]

/-! ## Set Parameters -/

/-- Settles O47: the image is read as the parameters it is the image of, and applied whole or not at all. -/
theorem setParameters : Obligations.SetParameters := by
  refine ⟨fun s u d p h hpayload hvalid htolerance hu => ?_, fun s d h hinvalid => ?_⟩
  · have himage : parametersOfImage d.payload = some p := parametersOfImage_eq_some.mpr ⟨hpayload.symm, hvalid⟩
    have hbody : setParametersBody d.payload s.taken = Reply.only (s.taken.applyParameters p) .done := by
      rw [setParametersBody, himage]
      exact if_pos htolerance
    rw [exec_setParameters]
    refine directive_executes h hbody ?_
    rw [hu]
    have hmode {α : Type} (a b : α) : (if (p.clockMode != s.params.clockMode) = true then a else b) =
        if p.clockMode = s.params.clockMode then b else a := by
      by_cases hm : p.clockMode = s.params.clockMode <;> simp [hm]
    have hqualifier {α : Type} (a b : α) :
        (if (p.syncFilter != s.params.syncFilter || p.syncPolarity != s.params.syncPolarity) = true then a else b) =
          if p.syncFilter = s.params.syncFilter ∧ p.syncPolarity = s.params.syncPolarity then b else a := by
      by_cases hf : p.syncFilter = s.params.syncFilter <;> by_cases hp : p.syncPolarity = s.params.syncPolarity <;> simp [hf, hp]
    rw [← hmode, ← hmode, ← hqualifier]
    rfl
  · have hbody : setParametersBody d.payload s.taken = Reply.only s.taken .badArgument := by
      unfold setParametersBody
      split
      · next p himage =>
        obtain ⟨hpayload, hvalid⟩ := parametersOfImage_eq_some.mp himage
        exact if_neg fun htolerance => hinvalid p hvalid htolerance hpayload.symm
      · rfl
    exact directive_badArgument h hbody

/-! ## Cancel Exchange -/

theorem headTagOf_of_le {tag : Byte} (h : tag.toNat ≤ 63) : headTagOf tag.toNat = some tag := by
  rw [headTagOf, if_pos h, byte_toNat]

/-- The slot of a head tag is the one open HEAD-origin exchange that carries it (R53, R117). -/
theorem slotOfTag_of_unique {tag : Byte} {i : Slot} {e : Exchange} (hs : s.slot i = some e) (horigin : e.origin = .head tag)
    (hunique : ∀ j f, s.slot j = some f → f.origin = .head tag → j = i) : s.slotOfTag tag = some i := by
  unfold State.slotOfTag
  rw [List.find?_eq_some_iff_append]
  have hmem : i ∈ allSlots := mem_allSlots i
  obtain ⟨before, behind, hsplit⟩ := List.append_of_mem hmem
  refine ⟨by simp [hs, horigin], before, behind, hsplit, fun j hj => ?_⟩
  have hne : j ≠ i := by
    rintro rfl
    have hnodup : allSlots.Nodup := List.nodup_finRange 24
    rw [hsplit, List.nodup_append] at hnodup
    exact hnodup.2.2 j hj j List.mem_cons_self rfl
  cases hj : s.slot j with
  | none => rfl
  | some f => simpa using fun ho => hne (hunique j f hj ho)

theorem slotOfTag_of_absent {tag : Byte} (h : ∀ j f, s.slot j = some f → f.origin ≠ .head tag) : s.slotOfTag tag = none := by
  unfold State.slotOfTag
  rw [List.find?_eq_none]
  intro j _
  cases hj : s.slot j with
  | none => simp
  | some f => simpa using h j f hj

/-- A conclusion and the taking of its directive count in either order (R24, R37). -/
theorem taken_conclude_place (s : State) (i : Slot) (e : Exchange) (o : OutcomeCode) (d : Frame) (status : AckStatus)
    (result : List Byte) :
    (s.taken.conclude i e o).place (acknowledgeFrame d status result) = (s.concludedAs i e o).acknowledged d status result := by
  have hcounters := congrArg State.counters (tally_comm s .directivesTaken (.outcomes o))
  change { (s.conclude i e o).acknowledged d status result with counters := ((s.tally .directivesTaken).tally (.outcomes o)).counters } = _
  rw [hcounters]
  rfl

theorem taken_conclude_node_place (s : State) (i : Slot) (e : Exchange) (o : OutcomeCode) (st : NodeState) (d : Frame)
    (status : AckStatus) (result : List Byte) :
    ((s.taken.conclude i e o).setNodeState e.node st).place (acknowledgeFrame d status result) =
      State.acknowledged { s.concludedAs i e o with nodes := changeNode s.nodes e.node fun x => { x with state := st } }
        d status result := by
  have h := congrArg (fun u : State => { u with nodes := changeNode s.nodes e.node fun x => { x with state := st } })
    (taken_conclude_place s i e o d status result)
  exact h

/-- Settles O51, by the state of the exchange found. -/
theorem cancelExchange : Obligations.CancelExchange := by
  constructor
  · intro s d tag i e h hpayload htag hs horigin hunique
    have hfound : s.taken.slotOfTag tag = some i := slotOfTag_of_unique (s := s.taken) hs horigin hunique
    have hslot : s.taken.slot i = some e := hs
    have cancels (hin : tooLateToCancel e = false) : oneByte headTagOf cancelExchangeBody d.payload s.taken =
        { state := s.taken.endExchange i e .cancelled, status := .done, result := cancelResult i e } := by
      rw [hpayload, oneByte_of_read (headTagOf_of_le htag), cancelExchangeBody]
      simp [hfound, hslot, hin]
    have late (hlate : tooLateToCancel e = true) : oneByte headTagOf cancelExchangeBody d.payload s.taken =
        { state := s.taken, status := .tooLate, result := cancelResult i e } := by
      rw [hpayload, oneByte_of_read (headTagOf_of_le htag), cancelExchangeBody]
      simp [hfound, hslot, hlate]
    rw [exec_cancelExchange]
    refine ⟨fun hwaiting => ?_, fun hissued hfield => ?_, fun hissued hbroadcast => ?_, fun code hheld => ?_, fun hconcluded => ?_⟩
    · refine directive_executes h (cancels (by simp [tooLateToCancel, hwaiting])) ?_
      simp only [State.endExchange, hwaiting, cancelResult, exchangeStateCode]
      exact taken_conclude_place s i e .cancelled d .done _
    · refine directive_executes h (cancels (by simp [tooLateToCancel, hissued, Config.broadcastNode, hfield])) ?_
      simp only [State.endExchange, hissued, Config.broadcastNode, hfield, if_false, cancelResult, exchangeStateCode]
      exact taken_conclude_node_place s i e .cancelled _ d .done _
    · rw [directive_acknowledged h (late (by simp [tooLateToCancel, hissued, Config.broadcastNode, hbroadcast]))]
      simp [cancelResult, exchangeStateCode, hissued, byte]
    · rcases hheld with ⟨hst, rfl⟩ | ⟨hst, rfl⟩
      · refine directive_executes h (cancels (by simp [tooLateToCancel, hst])) ?_
        simp only [State.endExchange, hst, cancelResult, exchangeStateCode]
        exact taken_conclude_node_place s i e .cancelled _ d .done _
      · refine directive_executes h (cancels (by simp [tooLateToCancel, hst])) ?_
        simp only [State.endExchange, hst, cancelResult, exchangeStateCode]
        exact taken_conclude_node_place s i e .cancelled _ d .done _
    · rw [directive_acknowledged h (late (by simp [tooLateToCancel, hconcluded]))]
      simp [cancelResult, exchangeStateCode, hconcluded, byte]
  · intro s d tag h hpayload htag habsent
    have hnone : s.taken.slotOfTag tag = none := slotOfTag_of_absent (s := s.taken) habsent
    rw [exec_cancelExchange]
    exact directive_acknowledged h (by rw [hpayload, oneByte_of_read (headTagOf_of_le htag), cancelExchangeBody, hnone]; rfl)

/-! ## The Cycle Schedule -/

/-- A directive that changes one entry and answers (R163 to R165). -/
theorem directive_entry {body : List Byte → State → Reply} {k : EntryIndex} {f : ScheduleEntry → ScheduleEntry} {x : ScheduleEntry}
    {result : List Byte} (h : s.directiveFirst d code)
    (hbody : body d.payload s.taken = { state := s.taken.updateEntry k f, status := .done, result := result })
    (hx : f (s.entry k) = x) :
    s.directive code body = .next (State.acknowledged { s with schedule := s.schedule.set k x } d .done result) := by
  subst hx
  exact directive_executes h hbody rfl

/-- Settles O53, by the state of the entry. -/
theorem loadScheduleEntry : Obligations.LoadScheduleEntry := by
  constructor
  · intro s d k f h hpayload hlow hhigh hdivisor hdivisor' hoffset htemplate hphase
    have himage : loadEntryOfImage d.payload = some (k, f) :=
      hpayload ▸ loadEntryOfImage_image k (scheduleFieldsValid_iff.mpr ⟨⟨hlow, hhigh⟩, ⟨hdivisor, hdivisor', hoffset⟩, htemplate⟩) hphase
    rw [exec_loadScheduleEntry]
    refine ⟨fun hfits => ?_, fun hunfit => ?_⟩
    · have hbody : loadScheduleEntryBody d.payload s.taken =
          Reply.done (s.taken.updateEntry k fun e => (loadEntry f e).1) [(loadEntry f (s.entry k)).2] := by
        rw [loadScheduleEntryBody, himage]
        exact if_pos hfits
      refine ⟨fun hst => ?_, fun hst hstaged => ?_, fun copy hst hstaged => ?_⟩
      · have hload : loadEntry f (s.entry k) = ({ s.entry k with state := .idle, live := some f }, 0x00) := by
          unfold loadEntry
          rcases hst with hst | hst <;> simp [hst]
        rw [hload] at hbody
        exact directive_entry h hbody (congrArg Prod.fst hload)
      · have hload : loadEntry f (s.entry k) = ({ s.entry k with staged := some f }, 0x01) := by
          unfold loadEntry
          simp [hst, hstaged]
        rw [hload] at hbody
        exact directive_entry h hbody (congrArg Prod.fst hload)
      · have hload : loadEntry f (s.entry k) = ({ s.entry k with staged := some f }, 0x02) := by
          unfold loadEntry
          simp [hst, hstaged]
        rw [hload] at hbody
        exact directive_entry h hbody (congrArg Prod.fst hload)
    · refine directive_badArgument h ?_
      rw [loadScheduleEntryBody, himage]
      exact if_neg (Nat.not_lt.mpr hunfit)
  · intro s d h hinvalid
    refine directive_badArgument (body := loadScheduleEntryBody) h ?_
    unfold loadScheduleEntryBody
    split
    · next k f himage =>
      obtain ⟨hpayload, hvalid⟩ := loadEntryOfImage_some himage
      exact absurd hpayload.symm (hinvalid k f hvalid)
    · rfl

theorem phaseFits_iff (s : State) (phase : Nat) :
    s.phaseFits phase = true ↔ phase < s.params.cycleLength ∧ ∀ l, s.stagedLength = some l → phase < l := by
  unfold State.phaseFits
  cases s.stagedLength <;> simp

/-- Settles O54, by the state of the entry. -/
theorem armDisarmClear : Obligations.ArmDisarmClear := by
  refine ⟨fun s d b k h hpayload hb => ?_, fun s d b k h hpayload hb => ?_, fun s d b k h hpayload hb => ?_⟩
  · have hread : oneByte entryIndexOf armEntryBody d.payload s.taken = armEntryBody k s.taken := by
      rw [hpayload, oneByte_of_read (entryIndexOf_eq_some.mpr hb)]
    have hentry : s.taken.entry k = s.entry k := rfl
    rw [exec_armEntry]
    refine ⟨fun hst => ?_, fun hst => ?_, fun live hst hlive => ⟨fun hunfit => ?_, fun hlength hstaged => ?_⟩⟩
    · exact directive_acknowledged h (by rw [hread, armEntryBody, hentry, hst]; rfl)
    · exact directive_acknowledged h (by rw [hread, armEntryBody, hentry, hst]; rfl)
    · have hfits : s.taken.phaseFits live.phase = false := by
        rw [← Bool.not_eq_true, phaseFits_iff]
        rintro ⟨hlength, hall⟩
        rcases hunfit with hunfit | ⟨l, hl, hle⟩
        · exact absurd hlength (Nat.not_lt.mpr hunfit)
        · exact absurd (hall l hl) (Nat.not_lt.mpr hle)
      exact directive_acknowledged h (by rw [hread, armEntryBody, hentry, hst, hlive]; simp [hfits, Reply.only])
    · have hfits : s.taken.phaseFits live.phase = true := (phaseFits_iff s.taken live.phase).mpr ⟨hlength, hstaged⟩
      have hbody : oneByte entryIndexOf armEntryBody d.payload s.taken =
          Reply.only (s.taken.updateEntry k (armed s.phase live)) .done := by
        rw [hread, armEntryBody, hentry, hst, hlive]
        simp [hfits]
      refine ⟨fun hreached => ?_, fun hahead => ?_⟩
      · exact directive_entry h hbody (by simp [armed, hreached])
      · exact directive_entry h hbody (by simp [armed, hahead])
  · have hread : oneByte entryIndexOf disarmEntryBody d.payload s.taken = disarmEntryBody k s.taken := by
      rw [hpayload, oneByte_of_read (entryIndexOf_eq_some.mpr hb)]
    have hentry : s.taken.entry k = s.entry k := rfl
    rw [exec_disarmEntry]
    refine ⟨fun hst => ?_, fun hst => ?_, fun copy hst hstaged => ?_, fun hst hstaged => ?_⟩
    · exact directive_acknowledged h (by rw [hread, disarmEntryBody, hentry, hst]; rfl)
    · exact directive_acknowledged h (by rw [hread, disarmEntryBody, hentry, hst]; rfl)
    · exact directive_entry h (by rw [hread, disarmEntryBody, hentry, hst]; rfl) (by simp [disarmed, hst, hstaged])
    · exact directive_entry h (by rw [hread, disarmEntryBody, hentry, hst]; rfl) (by simp [disarmed, hst, hstaged])
  · exact directive_entry h (by rw [hpayload, oneByte_of_read (entryIndexOf_eq_some.mpr hb)]; rfl) rfl

/-! ## Grants -/

/-- Settles O31: the two updates of a node entry, and the entries of the park order freed. -/
theorem withdrawGrantAndDiscardParked : Obligations.WithdrawGrantAndDiscardParked := by
  refine ⟨fun s d node h hpayload hlow hhigh => ?_, fun s d node h hpayload hlow hhigh => ?_⟩
  · exact directive_executes h (by rw [hpayload, oneByte_of_read (fieldNodeOf_of_range hlow hhigh)]) rfl
  · have hfreed (j : StoreIndex) := freeEntries_get s.store (s.node node.toNat).parkOrder j
    refine ⟨_, directive_executes h (by rw [hpayload, oneByte_of_read (fieldNodeOf_of_range hlow hhigh)]) rfl, fun j hj => ?_,
      fun j hj => ?_, rfl⟩
    · exact (hfreed j).trans (if_pos hj)
    · exact (hfreed j).trans (if_neg hj)

/-- Settles O30: what the grant leaves of the store, of the node and of the owed order, read off it one by one. -/
theorem postGrant : Obligations.PostGrant := by
  intro s d node k credit released left h hpayload hlow hhigh hk hk' hcredit hreleased hleft
  have hnode : (s.taken.grant node.toNat k.toNat).node node.toNat =
      { s.node node.toNat with
        credit := credit - released.length, parkOrder := left, notice := if left = [] then .none else .owed } := by
    refine (State.node_grant s.taken k.toNat ⟨hlow, hhigh⟩).trans ?_
    have htaken : s.taken.node node.toNat = s.node node.toNat := rfl
    subst hcredit hreleased hleft
    simp [Config.maxCredit, htaken]
  have hstored (j : StoreIndex) : (s.taken.grant node.toNat k.toNat).stored j =
      if j ∈ released then (s.stored j).map fun r => { r with released := true } else s.stored j := by
    subst hcredit hreleased
    exact State.stored_grant s.taken node.toNat k.toNat j
  have howed : (s.taken.grant node.toNat k.toNat).owedOrder =
      if left.isEmpty then s.owedOrder.filter (· != node.toNat) else oweNotice s.owedOrder node.toNat := by
    subst hcredit hleft
    rfl
  have hbody : postGrantBody d.payload s.taken =
      { state := s.taken.grant node.toNat k.toNat,
        status := if 15 < (s.node node.toNat).credit + k.toNat then .saturated else .done,
        result := [byte released.length, byte (credit - released.length)] } := by
    have hlength : (s.node node.toNat).parkOrder.length - left.length = released.length := by
      subst hreleased hleft
      simp
      omega
    have hin : ¬ (k.toNat = 0 ∨ 15 < k.toNat) := by omega
    rw [hpayload, postGrantBody, if_neg (by simp)]
    simp only [byteAt_cons_zero, byteAt_cons_succ, fieldNodeOf_of_range hlow hhigh, hin, if_false, hnode]
    rw [← hlength]
    rfl
  refine ⟨_, (exec_postGrant s).trans (directive_executes h hbody rfl), fun j hj => (hstored j).trans (if_pos hj),
    fun j hj => (hstored j).trans (if_neg hj), hnode,
    fun n hn => State.node_grant_of_ne s.taken k.toNat hn.symm, fun hempty => ?_, fun hsome hin => ?_, fun hsome hout => ?_, ?_⟩
  · exact howed.trans (by simp [hempty])
  · exact howed.trans (by simp [hsome, oweNotice, hin])
  · exact howed.trans (by simp [hsome, oweNotice, hout])
  · subst hcredit hreleased
    rfl

/-! ## Restart -/

theorem holdsFlagsNotice_iff (s : State) :
    s.holdsFlagsNotice = true ↔ ∃ f, Item.control f ∈ s.delivery ∧ f.kind = .notice ∧ f.function = 2 := by
  unfold State.holdsFlagsNotice
  rw [List.any_eq_true]
  constructor
  · rintro ⟨x, hx, hflags⟩
    cases x with
    | control f => exact ⟨f, hx, by simpa [isFlagsRaised, flagsRaisedCode] using hflags⟩
    | conclusion i => cases hflags
    | report k => cases hflags
  · rintro ⟨f, hf, hflags⟩
    exact ⟨.control f, hf, by simpa [isFlagsRaised, flagsRaisedCode] using hflags⟩

theorem node_restarted (s : State) (n : Nat) :
    s.restarted.node n =
      { state := .idle, issueNumber := (s.node n).issueNumber, lastLatency := 0, maxLatency := 0, credit := 0,
        lastSequence := none, notice := .none, parkOrder := [] } := by
  rw [State.node_map (s := s) (g := restartedNode) rfl]
  split
  · rfl
  · next hn => rw [s.node_outside hn]; rfl

/-- Settles O55: the tables of the restarted state read entry by entry. -/
theorem restart : Obligations.Restart := by
  intro s d h hpayload
  have hentry (k : EntryIndex) : s.taken.restarted.entry k = restartedEntry (s.entry k) :=
    State.entry_map (s := s.taken) (g := restartedEntry) rfl k
  have hbody : noArguments (fun u => Reply.only u.restarted .done) d.payload s.taken = Reply.only s.taken.restarted .done := by
    rw [hpayload, noArguments_nil]
  refine ⟨_, directive_executes h hbody rfl, slot_restarted s.taken, fun k => ?_, fun n => node_restarted s.taken n,
    fun k copy hst hstaged => ?_, fun k hst hstaged => ?_, fun k hst => ?_, ?_, rfl⟩
  · exact show s.taken.restarted.stored k = none by simp [State.stored, State.restarted]
  · exact (hentry k).trans (by simp [restartedEntry, disarmed, hst, hstaged])
  · exact (hentry k).trans (by simp [restartedEntry, disarmed, hst, hstaged])
  · refine (hentry k).trans ?_
    cases hst' : (s.entry k).state with
    | armed => exact absurd hst' hst
    | idle => simp [restartedEntry, disarmed, hst']
    | empty => simp [restartedEntry, disarmed, hst']
  · refine (Iff.of_eq (Bool.or_eq_true s.flagsOwed s.holdsFlagsNotice)).trans ?_
    rw [holdsFlagsNotice_iff]

end Sys2Proof.Machine

/-! Admission (O40, O41) and the arrival of a REPORT (O28, O29). -/

namespace Sys2Proof.Machine

-- One theorem at a time, as in the tests: the memory limit of the check leaves room for few threads.
set_option Elab.async false

variable {s : State}

/-! ## The lowest FREE slot and entry -/

theorem lowestFree_eq {i : Slot} (hfree : s.slot i = none) (hlow : ∀ j, j < i → s.slot j ≠ none) : s.lowestFree = some i := by
  rw [State.lowestFree, allSlots, ← Fin.find?_eq_find?_finRange, Fin.find?_eq_some_iff]
  exact ⟨by rw [hfree]; rfl, fun j hj => by simpa [Option.isSome_iff_ne_none] using hlow j hj⟩

theorem lowestFree_eq_none (h : ∀ i, s.slot i ≠ none) : s.lowestFree = none :=
  List.find?_eq_none.mpr fun i _ => by simpa using h i

theorem lowestFreeEntry_eq {k : StoreIndex} (hfree : s.stored k = none) (hlow : ∀ j, j < k → s.stored j ≠ none) :
    s.lowestFreeEntry = some k := by
  rw [State.lowestFreeEntry, allEntries, ← Fin.find?_eq_find?_finRange, Fin.find?_eq_some_iff]
  exact ⟨by rw [hfree]; rfl, fun j hj => by simpa [Option.isSome_iff_ne_none] using hlow j hj⟩

theorem lowestFreeEntry_eq_none (h : ∀ k, s.stored k ≠ none) : s.lowestFreeEntry = none :=
  List.find?_eq_none.mpr fun k _ => by simpa using h k

/-! ## Admission -/

theorem tagHeld_iff {tag : Byte} : s.tagHeld tag = true ↔ ∃ j e, s.slot j = some e ∧ e.origin = .head tag := by
  rw [State.tagHeld, List.any_eq_true]
  refine exists_congr fun j => ?_
  cases s.slot j <;> simp [mem_allSlots]

/-- A REQUEST whose tag, node and length are in range is judged by its tag's holder and by the policy found (R71 to R74). -/
theorem judgeRequest_of_range {f : Frame} (htag : f.tag.toNat ≤ 63) (hnode : f.node ≠ 0) (hlength : f.payload.length ≤ 200)
    (hfree : ∀ j e, s.slot j = some e → e.origin ≠ .head f.tag) :
    s.judgeRequest f = (lookupPolicy s.policies f.node.toNat f.function).elim (.refuse .noPolicy) fun p =>
      if s.freeSlots < s.params.scheduleReserve + 1 then .refuse .tableFull else .accept p := by
  have hheld : ¬ s.tagHeld f.tag = true := fun h => by
    obtain ⟨j, e, hs, ho⟩ := tagHeld_iff.mp h
    exact hfree j e hs ho
  rw [State.judgeRequest, if_neg (by omega), if_neg hnode, if_neg (by omega), if_neg hheld]
  cases lookupPolicy s.policies f.node.toNat f.function <;> rfl

theorem exec_takeRequest (s : State) : exec .takeRequest s = execTakeRequest s := rfl

theorem takeRequest_admits {f : Frame} {rest : List Frame} {p : Policy} {i : Slot} (hintake : s.intake = f :: rest)
    (hkind : f.kind = .request) (hjudge : s.judgeRequest f = .accept p) (hfree : s.lowestFree = some i) (hturn : s.handing = false) :
    exec .takeRequest s =
      .next (State.openExchange { s with intake := rest } i (.head f.tag) f.node.toNat f.function f.payload p) := by
  rw [exec_takeRequest, execTakeRequest, State.admission]
  simp only [hintake, hkind, hjudge, hfree]
  exact inTurn_taken hturn

/-- Settles O40: every check passes, and the record opened is the one the statement writes out. -/
theorem requestAdmitted : Obligations.RequestAdmitted := by
  intro s f rest p i hintake hkind htag hnode hlength hheld hpolicy hroom hfree hlow hturn
  have hjudge : s.judgeRequest f = .accept p := by
    rw [judgeRequest_of_range htag hnode hlength hheld, hpolicy]
    exact if_neg (Nat.not_lt.mpr hroom)
  exact takeRequest_admits hintake hkind hjudge (lowestFree_eq hfree hlow) (noHanding_iff.mp hturn)

theorem takeRequest_refuses {f : Frame} {rest : List Frame} {code : RefusalCode} (hintake : s.intake = f :: rest)
    (hkind : f.kind = .request) (hjudge : s.judgeRequest f = .refuse code) :
    exec .takeRequest s =
      s.whenever s.controlFree ((State.tally { s with intake := rest } .refusals).place (refusalFrame f code)) := by
  rw [exec_takeRequest, execTakeRequest, State.admission, State.refusal]
  simp [hintake, hkind, hjudge]

/-- Settles O41: the first check that fails gives the code, and a control place free places the REFUSAL. -/
theorem requestRefused : Obligations.RequestRefused := by
  intro s f rest code hintake hkind hcheck
  have hjudge : s.judgeRequest f = .refuse code := by
    rcases hcheck with ⟨htag, rfl⟩ | ⟨htag, ⟨hnode, rfl⟩ | ⟨hnode, ⟨hlength, rfl⟩ | ⟨hlength, ⟨hheld, rfl⟩ | ⟨hheld, hcheck⟩⟩⟩⟩
    · exact if_pos htag
    · rw [State.judgeRequest, if_neg (by omega), if_pos hnode]
    · rw [State.judgeRequest, if_neg (by omega), if_neg hnode, if_pos hlength]
    · rw [State.judgeRequest, if_neg (by omega), if_neg hnode, if_neg (by omega), if_pos (tagHeld_iff.mpr hheld)]
    · rw [judgeRequest_of_range htag hnode hlength hheld]
      rcases hcheck with ⟨hpolicy, rfl⟩ | ⟨⟨p, hpolicy⟩, hfull, rfl⟩
      · rw [hpolicy]
        rfl
      · rw [hpolicy]
        exact if_pos hfull
  rw [takeRequest_refuses hintake hkind hjudge]
  refine ⟨fun hfree => ?_, fun hfull => ?_⟩
  · exact if_pos ((State.controlFree_iff s).mpr hfree)
  · exact if_neg fun hfree => absurd ((State.controlFree_iff s).mp hfree) (by omega)

/-! ## The arrival of a REPORT -/

theorem exec_reportArrival_of_good {node sequence function : Byte} {payload : List Byte} (h : s.receivingOn .field)
    (hlow : 1 ≤ node.toNat) (hhigh : node.toNat ≤ 62) (hp : payload.length ≤ 200) :
    exec (.reportArrival node sequence function payload) s =
      .next ((s.received .field).reportArrives ⟨.report, node, sequence, function, payload⟩) :=
  arriveFrame_handsOn h (accepted_report node sequence function payload hlow hhigh hp)

theorem reportArrives_repeated {f : Frame} (h : (s.node f.node.toNat).lastSequence = some f.tag) :
    s.reportArrives f = (s.tally .reportsRepeated).oweReceipt (receiptFor f .repeated) := if_pos h

theorem reportArrives_new {f : Frame} (h : (s.node f.node.toNat).lastSequence ≠ some f.tag) {k : StoreIndex}
    (hfree : s.lowestFreeEntry = some k) :
    (0 < (s.node f.node.toNat).credit → s.reportArrives f = s.releaseOnArrival k f) ∧
      ((s.node f.node.toNat).credit = 0 → s.reportArrives f = s.parkOnArrival k f) := by
  rw [State.reportArrives, if_neg h, hfree]
  exact ⟨fun hcredit => if_pos hcredit, fun hcredit => if_neg (by omega)⟩

theorem reportArrives_refused {f : Frame} (h : (s.node f.node.toNat).lastSequence ≠ some f.tag)
    (hfull : s.lowestFreeEntry = none) :
    s.reportArrives f = ((s.tally .reportsRefused).raiseFlag .storeFull).oweReceipt (receiptFor f .refused) := by
  rw [State.reportArrives, if_neg h, hfull]

/-- Settles O28: a repeat, and a new report that finds no FREE entry. -/
theorem reportRepeatedOrRefused : Obligations.ReportRepeatedOrRefused := by
  intro s node sequence function payload hrecv hlow hhigh hp
  rw [exec_reportArrival_of_good hrecv hlow hhigh hp]
  refine ⟨fun hrepeat => ?_, fun hnew hfull => ?_⟩
  · exact congrArg _ (reportArrives_repeated (s := s.received .field) hrepeat)
  · exact congrArg _ (reportArrives_refused (s := s.received .field) hnew (lowestFreeEntry_eq_none (s := s.received .field) hfull))

/-- Settles O29: the report goes to the lowest FREE entry, on credit or to the end of its node's park order. -/
theorem reportTaken : Obligations.ReportTaken := by
  intro s node sequence function payload k hrecv hlow hhigh hp hnew hfree hlowest
  obtain ⟨hreleased, hparked⟩ := reportArrives_new (s := s.received .field) (f := ⟨.report, node, sequence, function, payload⟩) hnew
    (lowestFreeEntry_eq (s := s.received .field) hfree hlowest)
  rw [exec_reportArrival_of_good hrecv hlow hhigh hp]
  refine ⟨fun hcredit => congrArg _ (hreleased hcredit), fun hcredit owed hkept hjoins hstays => ?_⟩
  have howed : owed = if (s.node node.toNat).notice = .none then oweNotice s.owedOrder node.toNat else s.owedOrder := by
    by_cases hnotice : (s.node node.toNat).notice = .none
    · by_cases hmem : node.toNat ∈ s.owedOrder
      · rw [if_pos hnotice, oweNotice, if_pos hmem, hstays hnotice hmem]
      · rw [if_pos hnotice, oweNotice, if_neg hmem, hjoins hnotice hmem]
    · rw [if_neg hnotice, hkept hnotice]
  subst howed
  exact congrArg _ (hparked hcredit)

end Sys2Proof.Machine

/-! Delivery to the controller: the head transmissions and the notices (O32, O33, O34). -/

namespace Sys2Proof.Machine

-- One theorem at a time, as in the tests: the memory limit of the check leaves room for few threads.
set_option Elab.async false

variable {s : State}

theorem transmissionOf_eq (now : Mono) (f : Frame) :
    transmissionOf now f = { bytes := frameBytes f, completes := now + BitVec.ofNat 48 (4 * (7 + f.payload.length + 2)) } := by
  rw [transmissionOf, length_frameBytes]
  rfl

theorem Port.canStart_of_idle {p : Port} (hup : p.up = true) (hidle : p.tx = none) : p.canStart = true := by
  rw [Port.canStart, hup, hidle]
  rfl

/-- The frame of an item, as the statement of the head transmission writes it (R10, R12, R175). -/
theorem itemFrame_eq {item : Item} {f : Frame}
    (h : (∃ i e, item = .conclusion i ∧ s.slot i = some e ∧
        f =
          { kind := .outcome, node := byte e.node, tag := originTag e.origin, function := e.function,
            payload := outcomeRecord i e ++ if e.answer.isSome then e.buffer else [] }) ∨
      (∃ k r, item = .report k ∧ s.stored k = some r ∧
        f =
          { kind := .reportDelivery, node := byte r.node, tag := r.sequence, function := r.function,
            payload := beBytes 2 r.arrival.cycle.toNat ++ beBytes 3 r.arrival.phase ++ byte k.val :: r.payload }) ∨
      item = .control f) :
    s.itemFrame item = some f := by
  rcases h with ⟨i, e, rfl, hs, rfl⟩ | ⟨k, r, rfl, hs, rfl⟩ | rfl
  · rw [State.itemFrame, hs]
    rfl
  · rw [State.itemFrame, hs]
    simp [reportDeliveryFrame, segmentBytes]
  · rfl

theorem exec_headTransmitStart (s : State) : exec .headTransmitStart s = execHeadTransmitStart s := rfl

/-- Settles O32: the first item gives the frame, and the frame its transmission. -/
theorem headTransmitStart : Obligations.HeadTransmitStart := by
  intro s item rest f hup hidle hfirst hturn hitem
  have hstart : s.headStart = some f := by
    rw [State.headStart, if_pos (Port.canStart_of_idle hup hidle), hfirst]
    exact itemFrame_eq hitem
  rw [exec_headTransmitStart, execHeadTransmitStart, hstart, ← transmissionOf_eq]
  exact inTurn_taken (noHanding_iff.mp hturn)

/-! ## Completions -/

theorem exec_outcomeTransmitCompletion (s : State) : exec .outcomeTransmitCompletion s = execOutcomeTransmitCompletion s := rfl
theorem exec_reportDeliveryCompletion (s : State) : exec .reportDeliveryCompletion s = execReportDeliveryCompletion s := rfl
theorem exec_controlTransmitCompletion (s : State) : exec .controlTransmitCompletion s = execControlTransmitCompletion s := rfl

theorem inTurn_of_sent (hsent : s.headSent) (hturn : s.noHanding) (u : State) :
    s.inTurn (s.headPort.completing s.now) u = .next u := by
  rw [completing_iff_headSent.mpr hsent]
  exact inTurn_taken (noHanding_iff.mp hturn)

theorem completeHead_of_first {item : Item} {rest : List Item} (h : s.delivery = item :: rest) :
    s.completeHead = { s with delivery := rest, headPort := { s.headPort with tx := none } } := by
  rw [State.completeHead, h]
  rfl

theorem updateEntry_eq {k : EntryIndex} {f : ScheduleEntry → ScheduleEntry} {x : ScheduleEntry} (h : f (s.entry k) = x) :
    s.updateEntry k f = { s with schedule := s.schedule.set k x } := by
  rw [← h]
  rfl

/-- A schedule entry written with what it holds leaves the state as it is. -/
theorem updateEntry_of_same {k : EntryIndex} {f : ScheduleEntry → ScheduleEntry} (h : f (s.entry k) = s.entry k) :
    s.updateEntry k f = s := by
  have hself : s.schedule.set k (s.entry k) = s.schedule := Vector.set_getElem_self k.isLt
  rw [updateEntry_eq h, hself]

theorem clearReference_of_other {i : Slot} {o : Origin}
    (h : (∃ tag, o = .head tag) ∨ ∃ k, o = .schedule k ∧ (s.entry k).openSlot ≠ some i) : s.clearReference i o = s := by
  rcases h with ⟨tag, rfl⟩ | ⟨k, rfl, hother⟩
  · rfl
  · exact updateEntry_of_same (if_neg hother)

theorem clearReference_of_named {i : Slot} {k : EntryIndex} (h : (s.entry k).openSlot = some i) :
    s.clearReference i (.schedule k) = { s with schedule := s.schedule.set k { s.entry k with openSlot := none } } :=
  updateEntry_eq (if_pos h)

theorem outcomeTransmitCompletion_releases {i : Slot} {rest : List Item} {e : Exchange} (hfirst : s.delivery = .conclusion i :: rest)
    (hsent : s.headSent) (hs : s.slot i = some e) (hturn : s.noHanding) :
    exec .outcomeTransmitCompletion s =
      .next (State.clearReference
        { s with delivery := rest, headPort := { s.headPort with tx := none }, slots := s.slots.set i none } i e.origin) := by
  have hslot : s.completeHead.slot i = some e := hs
  rw [exec_outcomeTransmitCompletion, execOutcomeTransmitCompletion, hfirst]
  refine (inTurn_of_sent hsent hturn _).trans (congrArg _ ?_)
  rw [State.releaseSlot, hslot, completeHead_of_first hfirst]
  rfl

/-- Settles O33: each completion takes the first item from the list and releases what it references. -/
theorem headCompletions : Obligations.HeadCompletions := by
  refine ⟨fun s i rest e hfirst hsent hs hturn => ⟨fun horigin => ?_, fun k horigin hnamed => ?_⟩,
    fun s k rest hfirst hsent hturn => ?_, fun s f rest hfirst hsent hturn => ?_⟩
  · exact (outcomeTransmitCompletion_releases hfirst hsent hs hturn).trans (congrArg _ (clearReference_of_other horigin))
  · rw [outcomeTransmitCompletion_releases hfirst hsent hs hturn, horigin]
    exact congrArg _ (clearReference_of_named hnamed)
  · rw [exec_reportDeliveryCompletion, execReportDeliveryCompletion, hfirst]
    refine (inTurn_of_sent hsent hturn _).trans (congrArg _ ?_)
    rw [completeHead_of_first hfirst]
  · rw [exec_controlTransmitCompletion, execControlTransmitCompletion, hfirst]
    exact (inTurn_of_sent hsent hturn _).trans (congrArg _ (completeHead_of_first hfirst))

/-! ## Notices -/

theorem exec_flagsRaisedNoticePlaced (s : State) : exec .flagsRaisedNoticePlaced s = execFlagsRaisedNoticePlaced s := rfl
theorem exec_grantWantedNoticePlaced (s : State) : exec .grantWantedNoticePlaced s = execGrantWantedNoticePlaced s := rfl

theorem toList_six {α : Type} (v : Vector α 6) : v.toList = [v[0], v[1], v[2], v[3], v[4], v[5]] := by
  refine List.ext_getElem (by simp) fun i hi _ => ?_
  have hi : i < 6 := by simpa using hi
  interval_cases i <;> simp

theorem bitsByte_getLsbD (b : Byte) (h6 : b.getLsbD 6 = false) (h7 : b.getLsbD 7 = false) :
    bitsByte [b.getLsbD 0, b.getLsbD 1, b.getLsbD 2, b.getLsbD 3, b.getLsbD 4, b.getLsbD 5] = b := by
  revert b
  decide

/-- A byte with bit n set exactly for flag n is the content of a FLAGS RAISED notice (R11). -/
theorem raisedByte_eq {b : Byte} (hflags : ∀ f, b.getLsbD (flagNumber f) = (s.flag f).raised) (h6 : b.getLsbD 6 = false)
    (h7 : b.getLsbD 7 = false) : raisedByte s.flags = b := by
  rw [raisedByte, toList_six, ← bitsByte_getLsbD b h6 h7]
  exact congrArg bitsByte (by
    simp only [List.map_cons, List.map_nil, List.cons.injEq, and_true]
    exact ⟨(hflags .cycleSlip).symm, (hflags .scheduleCut).symm, (hflags .syncLost).symm, (hflags .headOverrun).symm,
      (hflags .storeFull).symm, (hflags .fieldLineLoss).symm⟩)

theorem exec_issueTransmitCompletion (s : State) : exec .issueTransmitCompletion s = execIssueTransmitCompletion s := rfl
theorem exec_broadcastTransmitCompletion (s : State) :
    exec .broadcastTransmitCompletion s = execBroadcastTransmitCompletion s := rfl
theorem exec_receiptTransmitCompletion (s : State) : exec .receiptTransmitCompletion s = execReceiptTransmitCompletion s := rfl

theorem fieldStart_of_handing (h : s.handing = true) : s.fieldStart = none := by
  cases hstart : s.fieldStart with
  | none => rfl
  | some c => exact absurd (fieldStart_iff.mp hstart).2.1 (by simp [h])

/-- While a control place is being handed, nothing that waits for the handing has an effect (R174, log 24). -/
theorem exec_of_handing {c : Instr} (h : s.handing = true) (hwaits : waitsForHanding c = true)
    (hreply : isReply c = true → s.fieldPort.receive ≠ .arrived) : exec c s = .next s := by
  have turn (b : Bool) (u : State) : s.inTurn b u = .next s := inTurn_of_handing h
  have noReply (hc : isReply c = true) : s.canReply = false := by
    simp [State.canReply, State.replyDue, hreply hc, h]
  cases c with
  | answerArrival | deferArrival => exact if_neg (by simp [noReply rfl])
  | requestArrival | directiveArrival | reportArrival | malformedFrame | startPatternSeen => exact turn _ _
  | headLineDown | headLineUp | fieldLineDown | fieldLineUp => exact turn _ _
  | issueSelection | broadcastSelection | receiptTransmitStart =>
    simp [exec, execIssueSelection, execBroadcastSelection, execReceiptTransmitStart, fieldStart_of_handing h]
  | cycleStart | syncEdge | qualifiedLevelChange | scheduleFiring | quietUntilReached => exact turn _ _
  | issueTransmitCompletion => rw [exec_issueTransmitCompletion, execIssueTransmitCompletion]; split <;> simp only [turn]
  | broadcastTransmitCompletion => rw [exec_broadcastTransmitCompletion, execBroadcastTransmitCompletion]; (split <;> try split) <;> simp only [turn]
  | receiptTransmitCompletion => rw [exec_receiptTransmitCompletion, execReceiptTransmitCompletion]; split <;> simp only [turn]
  | headTransmitStart => rw [exec_headTransmitStart, execHeadTransmitStart]; split <;> simp only [turn]
  | outcomeTransmitCompletion => rw [exec_outcomeTransmitCompletion, execOutcomeTransmitCompletion]; split <;> simp only [turn]
  | reportDeliveryCompletion => rw [exec_reportDeliveryCompletion, execReportDeliveryCompletion]; split <;> simp only [turn]
  | controlTransmitCompletion => rw [exec_controlTransmitCompletion, execControlTransmitCompletion]; split <;> simp only [turn]
  | answerWindowExpiry i => rw [exec_answerWindowExpiry, execAnswerWindowExpiry]; split <;> simp only [turn]
  | reissueDue i => rw [exec_reissueDue, execReissueDue]; split <;> simp only [turn]
  | lifetimeEnd i => rw [exec_lifetimeEnd, execLifetimeEnd]; split <;> simp only [turn]
  | tick =>
    refine if_neg fun hsettled => ?_
    exact absurd (handing_of_settled hsettled) (by simp [h])
  | _ => exact nomatch hwaits

/-- A REQUEST that Admission would accept waits for the handing (R174). -/
theorem takeRequest_of_handing (h : s.handing = true) (hclaim : s.noIntakeClaim) : exec .takeRequest s = .next s := by
  have hrefusal : s.refusal = none := by
    rcases hclaim with hempty | ⟨f, rest, p, hintake, hkind, hjudge⟩
    · rw [State.refusal, hempty]
    · simp [State.refusal, hintake, hkind, hjudge]
  rw [exec_takeRequest, execTakeRequest, hrefusal]
  cases s.admission with
  | none => rfl
  | some t => exact inTurn_of_handing h

/-- Settles O34: the two notices, and the commands that wait for a handing. -/
theorem noticesPlaced : Obligations.NoticesPlaced := by
  refine ⟨fun s b hfree hclaim howed hflags h6 h7 => ?_, fun s n rest hfree hclaim hflags howed => ?_, fun s hhanding => ?_⟩
  · have hready : s.flagsNoticeReady = true := by
      simp [State.flagsNoticeReady, howed, (State.controlFree_iff s).mpr hfree, noIntakeClaim_iff.mp hclaim]
    rw [exec_flagsRaisedNoticePlaced, execFlagsRaisedNoticePlaced, hready, flagsRaisedFrame, raisedByte_eq hflags h6 h7]
    rfl
  · have hready : s.grantNoticeNode = some n := by
      simp [State.grantNoticeNode, hflags, (State.controlFree_iff s).mpr hfree, noIntakeClaim_iff.mp hclaim, howed]
    rw [exec_grantWantedNoticePlaced, execGrantWantedNoticePlaced, hready, howed]
    rfl
  · have h : s.handing = true := by simpa [noHanding_iff] using hhanding
    exact ⟨fun c hwaits hreply => exec_of_handing h hwaits hreply, takeRequest_of_handing h⟩

end Sys2Proof.Machine

/-! The field transmit arbiter: eligibility, selections and the field port's transmissions (O23, O25, O26, O27). -/

namespace Sys2Proof.Machine

-- One theorem at a time, as in the tests: the memory limit of the check leaves room for few threads.
set_option Elab.async false

variable {s : State} {i : Slot} {e : Exchange}

/-! ## Eligibility -/

theorem busy_eq_false {st : NodeState} : st.busy = false ↔ st = .idle ∨ ∃ i, st = .held i := by
  cases st <;> simp [NodeState.busy]

theorem node_succ (s : State) (i : Fin 62) : s.node (i.val + 1) = s.nodes[i] := by
  rw [State.node, nodeIndex_eq_some.mpr rfl]

theorem noNodeBusy_iff : s.noNodeBusy = true ↔ ∀ n, 1 ≤ n → n ≤ 62 → (s.node n).state.busy = false := by
  rw [State.noNodeBusy, List.all_eq_true]
  constructor
  · intro h n hlow hhigh
    have hn : s.node n = s.nodes[n - 1] := by
      simpa [Nat.sub_add_cancel hlow] using node_succ s ⟨n - 1, by omega⟩
    simpa [hn] using h s.nodes[n - 1] (by simp)
  · intro h x hx
    obtain ⟨i, hi, rfl⟩ := List.mem_iff_getElem.mp hx
    have hi : i < 62 := by simpa using hi
    have hidle := h (i + 1) (by omega) (by omega)
    rw [node_succ s ⟨i, hi⟩] at hidle
    simpa using hidle

theorem olderSeq_eq_true {a b : AdmissionSeq} : olderSeq a b = true ↔ 1 ≤ (b - a).toNat ∧ (b - a).toNat < 2 ^ 31 := by
  rw [olderSeq, decide_eq_true_iff]

theorem isBarrier_iff : e.isBarrier = true ↔ e.state = .waiting ∧ e.node = 63 := by
  simp [Exchange.isBarrier, Config.broadcastNode]

theorem barrierAhead_iff :
    s.barrierAhead e = true ↔
      ∃ j b, s.slot j = some b ∧ (b.state = .waiting ∧ b.node = 63) ∧ olderSeq b.admissionSeq e.admissionSeq = true := by
  rw [State.barrierAhead, List.any_eq_true]
  refine exists_congr fun j => ?_
  cases s.slot j <;> simp [mem_allSlots, isBarrier_iff]

theorem eligible_iff :
    s.eligible e = true ↔
      e.state = .ready ∨
        e.state = .waiting ∧ (if e.node = 63 then s.noNodeBusy = true else (s.node e.node).state = .idle) ∧
          s.barrierAhead e = false := by
  unfold State.eligible
  by_cases hnode : e.node = Config.broadcastNode
  · cases e.state <;> simp [hnode, Config.broadcastNode]
  · have hfield : e.node ≠ 63 := hnode
    cases e.state <;> simp [hnode, hfield]

/-- Settles O23: the tests of eligibility say what R87 and R88 say. -/
theorem eligibility : Obligations.Eligibility := by
  intro s e
  rw [eligible_iff]
  refine or_congr_right (and_congr_right fun _ => ?_)
  rw [← and_assoc]
  refine and_congr ?_ ?_
  · by_cases hnode : e.node = 63
    · simp only [hnode, if_true, noNodeBusy_iff, busy_eq_false]
      simp
    · simp [hnode]
  · rw [← Bool.not_eq_true, barrierAhead_iff]
    constructor
    · exact fun h j b hs hw hb hold => h ⟨j, b, hs, ⟨hw, hb⟩, olderSeq_eq_true.mpr hold⟩
    · rintro h ⟨j, b, hs, ⟨hw, hb⟩, hold⟩
      exact h j b hs hw hb (olderSeq_eq_true.mp hold)

/-! ## Selections -/

theorem exec_issueSelection (s : State) : exec .issueSelection s = execIssueSelection s := rfl
theorem exec_broadcastSelection (s : State) : exec .broadcastSelection s = execBroadcastSelection s := rfl
theorem exec_receiptTransmitStart (s : State) : exec .receiptTransmitStart s = execReceiptTransmitStart s := rfl

/-- A slot that the arbiter may take for an origin (R89, R90). -/
theorem candidate_iff {schedule : Bool} :
    s.candidate schedule i ↔ ((s.slot i).any fun e => e.origin.isSchedule == schedule && s.eligible e) = true := by
  unfold State.candidate
  cases s.slot i <;> simp

theorem oldestEligible_eq (s : State) (schedule : Bool) :
    s.oldestEligible schedule =
      s.pendingOrder.find? fun i => (s.slot i).any fun e => e.origin.isSchedule == schedule && s.eligible e :=
  congrArg (List.find? · s.pendingOrder) (funext fun i => by cases s.slot i <;> rfl)

theorem oldestEligible_isSome {schedule : Bool} :
    (s.oldestEligible schedule).isSome = true ↔ ∃ j ∈ s.pendingOrder, s.candidate schedule j := by
  rw [oldestEligible_eq, List.find?_isSome]
  exact exists_congr fun j => and_congr_right fun _ => candidate_iff.symm

/-- The consecutive-schedule count after a selection (R89), as the statement gives it. -/
theorem runAfter_eq {run : Nat} (hhead : ∀ tag, e.origin = .head tag → run = 0)
    (hrise : ∀ k, e.origin = .schedule k → (∃ j ∈ s.pendingOrder, s.candidate false j) → run = s.scheduleRun + 1)
    (hkeep : ∀ k, e.origin = .schedule k → (∀ j ∈ s.pendingOrder, ¬ s.candidate false j) → run = s.scheduleRun) :
    s.runAfter e.origin = run := by
  cases horigin : e.origin with
  | head tag => exact (hhead tag horigin).symm
  | schedule k =>
    by_cases hcandidate : ∃ j ∈ s.pendingOrder, s.candidate false j
    · exact (if_pos (oldestEligible_isSome.mpr hcandidate)).trans (hrise k horigin hcandidate).symm
    · refine (if_neg (mt oldestEligible_isSome.mp hcandidate)).trans (hkeep k horigin ?_).symm
      exact fun j hj hc => hcandidate ⟨j, hj, hc⟩

theorem issueSelection_selects (hstart : s.fieldStart = some (.exchange i)) (hs : s.slot i = some e) (hnode : e.node ≠ 63) :
    exec .issueSelection s = .next (s.selectToNode i e) := by
  rw [exec_issueSelection, execIssueSelection, hstart]
  simp only [hs]
  exact if_pos (by simpa [Config.broadcastNode] using hnode)

theorem broadcastSelection_selects (hstart : s.fieldStart = some (.exchange i)) (hs : s.slot i = some e) (hnode : e.node = 63) :
    exec .broadcastSelection s = .next (s.selectBroadcast i e) := by
  rw [exec_broadcastSelection, execBroadcastSelection, hstart]
  simp only [hs]
  exact if_pos (by simpa [Config.broadcastNode] using hnode)

/-- A node entry is changed by what it holds. -/
theorem changeNode_congr {nodes : Vector NodeEntry 62} {n : Nat} {f g : NodeEntry → NodeEntry}
    (h : ∀ i, nodeIndex n = some i → f nodes[i] = g nodes[i]) : changeNode nodes n f = changeNode nodes n g := by
  unfold changeNode
  cases hn : nodeIndex n with
  | none => rfl
  | some i => exact congrArg (nodes.set i) (h i hn)

theorem node_of_index {n : Nat} {k : Fin 62} (h : nodeIndex n = some k) : s.node n = s.nodes[k] := by
  rw [State.node, h]

/-- Settles O25: the arbiter's choice is selected, its run count being the one the origin gives. -/
theorem selections : Obligations.Selections := by
  intro s i e run hstart hs hhead hrise hkeep
  have hrun : s.runAfter e.origin = run := runAfter_eq hhead hrise hkeep
  refine ⟨fun hnode => ?_, fun hnode => ?_⟩
  · have hnumber : changeNode s.nodes e.node
        (fun x => { x with issueNumber := (s.node e.node).issueNumber + 1, state := .occupied i }) =
        changeNode s.nodes e.node fun x => { x with issueNumber := x.issueNumber + 1, state := .occupied i } :=
      changeNode_congr fun k hk => by rw [node_of_index hk]
    have hsent := transmissionOf_eq s.now (issueFrame e ((s.node e.node).issueNumber + 1))
    rw [issueSelection_selects hstart hs hnode, ← hnumber, ← hrun]
    unfold State.selectToNode State.startField Port.start
    exact congrArg _ (hsent ▸ rfl)
  · have hframe : issueFrame e 0 = { kind := .issue, node := 63, tag := 0, function := e.function, payload := e.buffer } := by
      rw [issueFrame, hnode]
      rfl
    have hsent := transmissionOf_eq s.now (issueFrame e 0)
    rw [hframe] at hsent
    rw [broadcastSelection_selects hstart hs hnode, ← hrun, State.selectBroadcast, hframe]
    unfold State.startField Port.start
    exact congrArg _ (hsent ▸ rfl)

/-! ## Receipts and completions -/

theorem completing_iff_fieldSent : s.fieldPort.completing s.now = true ↔ s.fieldSent := by
  unfold Port.completing State.fieldSent
  cases s.fieldPort.tx <;> simp

theorem receiptTransmitStart_starts {r : Receipt} (hstart : s.fieldStart = some (.receipt r)) :
    exec .receiptTransmitStart s =
      .next ((State.startField { s with receipts := s.receipts.tail } (receiptFrame r) (.receipt r)).tally .receiptsSent) := by
  rw [exec_receiptTransmitStart, execReceiptTransmitStart, hstart]

/-- Settles O26: the receipt's start and its completion. -/
theorem receiptTransmission : Obligations.ReceiptTransmission := by
  refine ⟨fun s r rest hstart hreceipts => ?_, fun s r hflight hsent hturn => ?_⟩
  · have hsent := transmissionOf_eq s.now (receiptFrame r)
    rw [receiptTransmitStart_starts hstart, hreceipts]
    unfold State.startField Port.start
    exact congrArg _ (hsent ▸ rfl)
  · rw [exec_receiptTransmitCompletion, execReceiptTransmitCompletion, hflight]
    simp only [completing_iff_fieldSent.mpr hsent]
    exact inTurn_taken (noHanding_iff.mp hturn)

theorem firstIssue_eq (s : State) (e : Exchange) :
    completedRecord s e =
      { e with
        lastCompletion := some s.now, firstIssue := some (e.firstIssue.getD { cycle := s.cycle, phase := s.phase }) } := by
  unfold completedRecord
  cases e.firstIssue <;> rfl

theorem issueTransmitCompletion_completes {n : Nat} {number : Byte} {window : Nat}
    (hflight : s.inFlight = some (.issue i n number window)) (hnode : n ≠ 63) (hsent : s.fieldSent) (hturn : s.noHanding) :
    exec .issueTransmitCompletion s = .next (s.completeIssue n window).endField := by
  rw [exec_issueTransmitCompletion, execIssueTransmitCompletion, hflight]
  simp only [completing_iff_fieldSent.mpr hsent, Config.broadcastNode, bne_iff_ne.mpr hnode, Bool.and_self]
  exact inTurn_taken (noHanding_iff.mp hturn)

/-- Settles O27: the completion of an ISSUE by the state of its node, and that of a broadcast. -/
theorem issueCompletions : Obligations.IssueCompletions := by
  refine ⟨fun s i n number window hflight hnode hsent hturn => ?_,
    fun s i number window e hflight hsent hs hissued hnode hturn => ?_⟩
  · rw [issueTransmitCompletion_completes hflight hnode hsent hturn]
    refine ⟨fun j e hocc hs => congrArg _ ?_, fun hquiet => congrArg _ ?_, fun hother => congrArg _ ?_⟩
    · simp only [State.completeIssue, hocc, hs, firstIssue_eq]
      rfl
    · simp only [State.completeIssue, hquiet]
      rfl
    · rcases hother with hst | ⟨q, hst⟩ | ⟨j, hst⟩ <;> simp only [State.completeIssue, hst] <;> rfl
  · rw [exec_broadcastTransmitCompletion, execBroadcastTransmitCompletion, hflight, ← firstIssue_eq]
    simp only [hs, completing_iff_fieldSent.mpr hsent, hissued, hnode, Config.broadcastNode, beq_self_eq_true, Bool.and_self]
    exact inTurn_taken (noHanding_iff.mp hturn)

end Sys2Proof.Machine

/-! The firings of the Cycle Schedule and the cycle starts (O37, O38, O39). -/

namespace Sys2Proof.Machine

-- One theorem at a time, as in the tests: the memory limit of the check leaves room for few threads.
set_option Elab.async false

variable {s : State} {k : EntryIndex} {phase : Nat} {live : ScheduleFields}

/-! ## Firings -/

theorem firesAt_eq_some : s.firesAt k phase = some live ↔ s.firing k phase live := by
  unfold State.firesAt State.firing
  dsimp only
  split
  · next other hst hlive =>
    simp only [hst, hlive, eligibleIn, Option.ite_none_right_eq_some, Bool.and_eq_true, Bool.not_eq_true', beq_iff_eq, true_and,
      Option.some.injEq]
    constructor
    · rintro ⟨⟨⟨hfired, heligible⟩, hphase⟩, rfl⟩
      exact ⟨hfired, rfl, heligible, hphase⟩
    · rintro ⟨hfired, rfl, heligible, hphase⟩
      exact ⟨⟨⟨hfired, heligible⟩, hphase⟩, rfl⟩
  · next hother =>
    exact ⟨nofun, fun ⟨hst, _, hlive, _⟩ => absurd hlive (hother live hst)⟩

theorem firesAt_eq_none : s.firesAt k phase = none ↔ ∀ live, ¬ s.firing k phase live := by
  rw [Option.eq_none_iff_forall_ne_some]
  exact forall_congr' fun live => not_congr firesAt_eq_some

theorem fireAt_of_firing (h : s.firing k phase live) : s.fireAt phase k = s.fire k live := by
  rw [State.fireAt, firesAt_eq_some.mpr h]

theorem fireAt_of_not_firing (h : ∀ live, ¬ s.firing k phase live) : s.fireAt phase k = s := by
  rw [State.fireAt, firesAt_eq_none.mpr h]

theorem firstFiring_eq (h : s.firing k s.phase live) (hlow : ∀ j, j < k → ∀ other, ¬ s.firing j s.phase other) :
    s.firstFiring = some k := by
  rw [State.firstFiring, allScheduled, ← Fin.find?_eq_find?_finRange, Fin.find?_eq_some_iff]
  refine ⟨by rw [firesAt_eq_some.mpr h]; rfl, fun j hj => ?_⟩
  rw [firesAt_eq_none.mpr (hlow j hj)]
  rfl

theorem firstFiring_eq_none (h : ∀ k live, ¬ s.firing k s.phase live) : s.firstFiring = none := by
  refine List.find?_eq_none.mpr fun k _ => ?_
  rw [firesAt_eq_none.mpr (h k)]
  exact Bool.false_ne_true

theorem exec_scheduleFiring (s : State) (k : EntryIndex) : exec (.scheduleFiring k) s = execScheduleFiring k s := rfl

theorem fire_overlap {i : Slot} (h : (s.entry k).openSlot = some i) :
    s.fire k live =
      (s.updateEntry k fun e => markFired s.segmentTime { e with overlapSkips := e.overlapSkips + 1 }).tally .scheduleSkips := by
  rw [State.fire, h]

theorem fire_noPolicy (h : (s.entry k).openSlot = none) (hpolicy : lookupPolicy s.policies live.node live.function = none) :
    s.fire k live =
      (s.updateEntry k fun e => markFired s.segmentTime { e with noPolicySkips := e.noPolicySkips + 1 }).tally .scheduleSkips := by
  rw [State.fire, h, hpolicy]

theorem fire_noSlot {p : Policy} (h : (s.entry k).openSlot = none)
    (hpolicy : lookupPolicy s.policies live.node live.function = some p) (hfull : s.lowestFree = none) :
    s.fire k live =
      (s.updateEntry k fun e => markFired s.segmentTime { e with noSlotSkips := e.noSlotSkips + 1 }).tally .scheduleSkips := by
  rw [State.fire, h, hpolicy, hfull]

theorem fire_admits {p : Policy} {i : Slot} (h : (s.entry k).openSlot = none)
    (hpolicy : lookupPolicy s.policies live.node live.function = some p) (hfree : s.lowestFree = some i) :
    s.fire k live =
      (s.updateEntry k fun e => markFired s.segmentTime (admittedEntry live i e)).openExchange i (.schedule k) live.node
        live.function live.template p := by
  rw [State.fire, h, hpolicy, hfree]

/-- The entry that has admitted an exchange, by its mode (R161, R168). -/
theorem admittedEntry_eq {i : Slot} {e fired admitted : ScheduleEntry} (t : SegmentTime)
    (hfired : fired = { e with fired := true, lastFire := some t }) (hlive : e.live = some live)
    (hperiodic : live.mode = .periodic → admitted = { fired with openSlot := some i, fires := fired.fires + 1 })
    (honeShot : live.mode = .oneShot →
      admitted =
        { fired with
          openSlot := some i, fires := fired.fires + 1, state := .idle, live := some (fired.staged.getD live), staged := none }) :
    markFired t (admittedEntry live i e) = admitted := by
  unfold admittedEntry
  cases hmode : live.mode with
  | periodic =>
    rw [hperiodic hmode, hfired]
    rfl
  | oneShot =>
    rw [honeShot hmode, hfired, hlive]
    cases e.staged <;> rfl

/-- Settles O39: which entry fires, and what its firing does. -/
theorem scheduleFiring : Obligations.ScheduleFiring := by
  refine ⟨fun s k live hfires hlow hturn => ?_, fun s k phase h => fireAt_of_not_firing h,
    fun s k phase live fired hfires hfired => ?_⟩
  · rw [exec_scheduleFiring, execScheduleFiring, firstFiring_eq hfires hlow, beq_self_eq_true]
    exact inTurn_taken (noHanding_iff.mp hturn)
  · obtain ⟨-, -, hlive, -, -⟩ := id hfires
    subst hfired
    rw [fireAt_of_firing hfires]
    refine ⟨fun ⟨i, hopen⟩ => ?_, fun hopen hpolicy => ?_, fun p hopen hpolicy hfull => ?_,
      fun p i admitted hopen hpolicy hfree hlow hperiodic honeShot => ?_⟩
    · rw [fire_overlap hopen]
      rfl
    · rw [fire_noPolicy hopen hpolicy]
      rfl
    · rw [fire_noSlot hopen hpolicy (lowestFree_eq_none hfull)]
      rfl
    · rw [fire_admits hopen hpolicy (lowestFree_eq hfree hlow),
        updateEntry_eq (admittedEntry_eq s.segmentTime rfl hlive hperiodic honeShot)]
      rfl

/-! ## The work at a cycle start (R167) -/

variable {ending : CycleCount} {length : Nat} {e : ScheduleEntry}

theorem isCut_iff : isCut ending e = true ↔ cutInCycle ending e := by
  unfold isCut cutInCycle
  cases hst : e.state <;> cases hlive : e.live <;> simp [eligibleIn]

theorem cutEntry_eq (ending : CycleCount) (e : ScheduleEntry) :
    cutEntry ending e = { e with cuts := if isCut ending e = true then e.cuts + 1 else e.cuts } := by
  unfold cutEntry
  split <;> rfl

@[simp] theorem state_cutEntry (ending : CycleCount) (e : ScheduleEntry) : (cutEntry ending e).state = e.state := by
  rw [cutEntry_eq]
@[simp] theorem live_cutEntry (ending : CycleCount) (e : ScheduleEntry) : (cutEntry ending e).live = e.live := by
  rw [cutEntry_eq]
@[simp] theorem staged_cutEntry (ending : CycleCount) (e : ScheduleEntry) : (cutEntry ending e).staged = e.staged := by
  rw [cutEntry_eq]

theorem promoteEntry_promoted {copy : ScheduleFields} (hst : e.state = .armed) (hstaged : e.staged = some copy) :
    promoteEntry e = { e with live := some copy, staged := none } := by
  simp only [promoteEntry, hst, hstaged]

theorem promoteEntry_kept (h : e.state ≠ .armed ∨ e.staged = none) : promoteEntry e = e := by
  unfold promoteEntry
  split
  · next copy hst hstaged => simp [hst, hstaged] at h
  · rfl

/-- Promotion changes the live fields and the staged copy alone. -/
theorem promoteEntry_eq (e : ScheduleEntry) :
    promoteEntry e = { e with live := (promoteEntry e).live, staged := (promoteEntry e).staged } := by
  unfold promoteEntry
  split <;> rfl

theorem disarmUnfit_eq (length : Nat) (e : ScheduleEntry) :
    disarmUnfit length e = { e with state := if unfit length e = true then .idle else e.state } := by
  unfold disarmUnfit
  split <;> rfl

theorem unfit_eq_true : unfit length e = true ↔ e.state = .armed ∧ ∃ live, e.live = some live ∧ length ≤ live.phase := by
  unfold unfit
  cases hst : e.state <;> cases hlive : e.live <;> simp

/-- A promoted entry is unfit exactly when the copy that goes live does not fit (R167, steps 2 and 3). -/
theorem unfit_iff : unfit length (promoteEntry (cutEntry ending e)) = true ↔ disarmedForLength length e := by
  rw [unfit_eq_true, disarmedForLength]
  by_cases hst : e.state = .armed
  · cases hstaged : e.staged with
    | none => simp [promoteEntry_kept (e := cutEntry ending e) (.inr (by simpa using hstaged)), hst]
    | some copy =>
      simp [promoteEntry_promoted (e := cutEntry ending e) (by simpa using hst) (by simpa using hstaged), hst]
  · simp [promoteEntry_kept (e := cutEntry ending e) (.inl (by simpa using hst)), hst]

/-- What a cycle start makes of an entry: the cut counted, the copy promoted, disarmed where its phase does not fit, and its mark
cleared (R167, steps 1, 2, 3 and 6). -/
theorem cycleEntry_eq (ending : CycleCount) (length : Nat) (e : ScheduleEntry) :
    cycleEntry ending length e =
      { e with
        state := if unfit length (promoteEntry (cutEntry ending e)) = true then .idle else e.state
        live := (promoteEntry (cutEntry ending e)).live
        staged := (promoteEntry (cutEntry ending e)).staged
        cuts := if isCut ending e = true then e.cuts + 1 else e.cuts
        fired := false } := by
  rw [cycleEntry, disarmUnfit_eq]
  generalize unfit length (promoteEntry (cutEntry ending e)) = u
  rw [promoteEntry_eq, cutEntry_eq]

theorem live_promoted {copy : ScheduleFields} (hst : e.state = .armed) (hstaged : e.staged = some copy) :
    (cycleEntry ending length e).live = some copy ∧ (cycleEntry ending length e).staged = none := by
  rw [cycleEntry_eq, promoteEntry_promoted (e := cutEntry ending e) (by simpa using hst) (by simpa using hstaged)]
  exact ⟨rfl, rfl⟩

theorem live_kept (h : e.state ≠ .armed ∨ e.staged = none) :
    (cycleEntry ending length e).live = e.live ∧ (cycleEntry ending length e).staged = e.staged := by
  rw [cycleEntry_eq, promoteEntry_kept (e := cutEntry ending e) (by simpa using h)]
  exact ⟨live_cutEntry ending e, staged_cutEntry ending e⟩

/-! ## Cycle starts -/

/-- The state of a cycle start after the clock's steps and the schedule's steps 1 to 6, before the firings of phase 0. -/
def State.cycleBegun (s : State) (kind : StartKind) : State :=
  let u := s.newCycle kind
  (((State.raiseFlagIf { u with schedule := u.schedule.map (cycleEntry s.cycle u.params.cycleLength) }
    (u.slipped s.cycle) .cycleSlip).raiseFlagIf (u.scheduleCut s.cycle u.params.cycleLength) .scheduleCut).raiseFlagIf
    (s.losesSync kind) .syncLost)

theorem startCycle_eq (s : State) (kind : StartKind) : s.startCycle kind = (s.cycleBegun kind).phaseZeroFirings := rfl

theorem slipped_iff :
    s.slipped ending = true ↔ ∃ i e k, s.slot i = some e ∧ e.origin = .schedule k ∧ e.state = .waiting ∧ e.admissionCycle = ending := by
  rw [State.slipped, List.any_eq_true]
  refine exists_congr fun i => ?_
  cases s.slot i with
  | none => simp
  | some e => cases horigin : e.origin <;> simp [mem_allSlots, horigin]

theorem scheduleCut_iff :
    s.scheduleCut ending length = true ↔ ∃ k, cutInCycle ending (s.entry k) ∨ disarmedForLength length (s.entry k) := by
  rw [State.scheduleCut, List.any_eq_true]
  simp only [Bool.or_eq_true, isCut_iff, unfit_iff]
  constructor
  · rintro ⟨x, hx, h⟩
    obtain ⟨k, hk, rfl⟩ := List.mem_iff_getElem.mp hx
    exact ⟨⟨k, by simpa using hk⟩, h⟩
  · rintro ⟨k, h⟩
    exact ⟨s.entry k, by simp [State.entry], h⟩

theorem losesSync_iff {kind : StartKind} :
    s.losesSync kind = true ↔
      kind = .flywheel ∧ s.lossRaised = false ∧ s.params.syncMissLimit ≤ min 255 (s.missRun + 1) := by
  simp [State.losesSync, nextMissRun, and_assoc]

/-- The three raises that a cycle start may make, in flag-number order (R167, step 5). -/
def State.cycleRaises (u : State) (slip cut lost : Bool) : State :=
  ((u.raiseFlagIf slip .cycleSlip).raiseFlagIf cut .scheduleCut).raiseFlagIf lost .syncLost

/-- The raises change the flags alone. -/
theorem cycleRaises_eq (u : State) (slip cut lost : Bool) :
    u.cycleRaises slip cut lost =
      { u with
        flags := (u.cycleRaises slip cut lost).flags, flagEvent := (u.cycleRaises slip cut lost).flagEvent,
        flagsOwed := (u.cycleRaises slip cut lost).flagsOwed } := by
  cases slip <;> cases cut <;> cases lost <;> rfl

/-- What a raise reads and writes: the flags, the event number, whether a notice is owed, and the Alert Mask (R33, R34). -/
def State.flagView (s : State) : Vector FlagRecord 6 × BitVec 16 × Bool × BitVec 6 :=
  (s.flags, s.flagEvent, s.flagsOwed, s.params.alertMask)

theorem flagView_raiseFlagIf {u v : State} (h : u.flagView = v.flagView) (b : Bool) (f : Flag) :
    (u.raiseFlagIf b f).flagView = (v.raiseFlagIf b f).flagView := by
  cases b with
  | false => exact h
  | true =>
    simp only [State.flagView, Prod.mk.injEq] at h
    simp [State.flagView, State.raiseFlagIf, State.raiseFlag, State.flag, h]

theorem flagView_cycleRaises {u v : State} (h : u.flagView = v.flagView) (slip cut lost : Bool) :
    (u.cycleRaises slip cut lost).flagView = (v.cycleRaises slip cut lost).flagView :=
  flagView_raiseFlagIf (flagView_raiseFlagIf (flagView_raiseFlagIf h slip .cycleSlip) cut .scheduleCut) lost .syncLost

/-- The clock and the schedule's entries after steps 1 to 3 and 6 of a cycle start, before the flags are raised. -/
def State.cycleTurned (s : State) (kind : StartKind) : State :=
  { s.newCycle kind with schedule := s.schedule.map (cycleEntry s.cycle (s.newCycle kind).params.cycleLength) }

theorem cycleBegun_eq (s : State) (kind : StartKind) :
    s.cycleBegun kind =
      (s.cycleTurned kind).cycleRaises (s.slipped s.cycle) (s.scheduleCut s.cycle (s.newCycle kind).params.cycleLength)
        (s.losesSync kind) := rfl

theorem entry_cycleBegun (s : State) (kind : StartKind) (k : EntryIndex) :
    (s.cycleBegun kind).entry k = cycleEntry s.cycle (s.cycleBegun kind).params.cycleLength (s.entry k) :=
  State.entry_map (s := s) (g := cycleEntry s.cycle (s.cycleBegun kind).params.cycleLength) (by simp [State.cycleBegun]) k

/-- A cycle start touches the clock, the schedule and the flags alone. -/
theorem cycleRaises_others (s : State) (kind : StartKind) (slip cut lost : Bool) (u : State)
    (h : u = (s.cycleTurned kind).cycleRaises slip cut lost) :
    u =
      { s with
        phase := u.phase, cycle := u.cycle, params := u.params, stagedLength := u.stagedLength, startKind := u.startKind,
        capture := u.capture, missRun := u.missRun, lossRaised := u.lossRaised, schedule := u.schedule, flags := u.flags,
        flagEvent := u.flagEvent, flagsOwed := u.flagsOwed } := by
  subst h
  cases slip <;> cases cut <;> cases lost <;> rfl

/-- A cycle start leaves a state that the statements call begun (R150, R156, R167). -/
theorem cycleBegun (s : State) (kind : StartKind) : s.CycleBegun kind (s.cycleBegun kind) := by
  have hbegun : s.cycleBegun kind =
      { s.cycleTurned kind with
        flags := (s.cycleBegun kind).flags, flagEvent := (s.cycleBegun kind).flagEvent,
        flagsOwed := (s.cycleBegun kind).flagsOwed } := cycleRaises_eq _ _ _ _
  have hentry := entry_cycleBegun s kind
  have hlength : (s.cycleBegun kind).params.cycleLength = (s.newCycle kind).params.cycleLength := by
    rw [congrArg State.params hbegun]
    rfl
  exact {
    phase := congrArg State.phase hbegun
    cycle := congrArg State.cycle hbegun
    length := congrArg State.params hbegun
    staged := congrArg State.stagedLength hbegun
    startKind := congrArg State.startKind hbegun
    capture := congrArg State.capture hbegun
    missRun := congrArg State.missRun hbegun
    lossRaised := by
      have hloss : (s.cycleBegun kind).lossRaised = (s.lossRaised || s.losesSync kind) := congrArg State.lossRaised hbegun
      rw [hloss, Bool.or_eq_true, losesSync_iff]
      cases s.lossRaised <;> simp
    cutOnce := fun k h => by rw [hentry, cycleEntry_eq]; exact if_pos (isCut_iff.mpr h)
    notCut := fun k h => by rw [hentry, cycleEntry_eq]; exact if_neg (mt isCut_iff.mp h)
    disarmed := fun k h => by rw [hentry, cycleEntry_eq]; exact if_pos (unfit_iff.mpr h)
    stateKept := fun k h => by rw [hentry, cycleEntry_eq]; exact if_neg (mt unfit_iff.mp h)
    promoted := fun k copy hst hstaged => by rw [hentry]; exact live_promoted hst hstaged
    liveKept := fun k h => by rw [hentry]; exact live_kept h
    entry := fun k => by rw [hentry, cycleEntry_eq]
    flags := by
      refine ⟨s.slipped s.cycle, s.scheduleCut s.cycle (s.newCycle kind).params.cycleLength, s.losesSync kind, slipped_iff, ?_,
        losesSync_iff, ?_⟩
      · rw [hlength]
        exact scheduleCut_iff
      · rintro v rfl
        have hview := flagView_cycleRaises (u := s.cycleTurned kind) (v := s) rfl (s.slipped s.cycle)
          (s.scheduleCut s.cycle (s.newCycle kind).params.cycleLength) (s.losesSync kind)
        simp only [State.flagView, Prod.mk.injEq] at hview
        obtain ⟨hflags, hevent, howed, -⟩ := hview
        exact ⟨hflags, hevent, howed⟩
    others := cycleRaises_others s kind _ _ _ _ rfl }

/-! ## The held advance and the SYNC edge -/

theorem exec_cycleStart (s : State) : exec .cycleStart s = execCycleStart s := rfl
theorem exec_syncEdge (s : State) : exec .syncEdge s = execSyncEdge s := rfl
theorem exec_qualifiedLevelChange (s : State) : exec .qualifiedLevelChange s = execQualifiedLevelChange s := rfl

theorem cycleStart_takes (hheld : s.advanceHeld = true) (hturn : s.noHanding) : exec .cycleStart s = .next s.takeAdvance := by
  rw [exec_cycleStart, execCycleStart, hheld]
  exact inTurn_taken (noHanding_iff.mp hturn)

theorem takeAdvance_of_end {kind : StartKind} (hend : s.params.cycleLength ≤ s.phase + 1) (hkind : endKind s.params.clockMode = kind) :
    s.takeAdvance = (State.cycleBegun { s with advanceHeld := false } kind).phaseZeroFirings := by
  subst hkind
  exact if_pos (decide_eq_true hend)

/-- Settles O37: within the cycle the phase rises; at its length a cycle of the mode's kind begins. -/
theorem cycleStart : Obligations.CycleStart := by
  refine ⟨fun s hheld hinside hturn => ?_, fun s hheld hend hturn => ⟨fun hmode => ?_, fun hmode => ?_⟩⟩
  · rw [cycleStart_takes hheld hturn, State.takeAdvance, if_neg (by simpa [State.atCycleEnd] using hinside)]
  · exact ⟨_, cycleBegun { s with advanceHeld := false } .wrap,
      (cycleStart_takes hheld hturn).trans (congrArg _ (takeAdvance_of_end hend (by rw [hmode]; rfl)))⟩
  · exact ⟨_, cycleBegun { s with advanceHeld := false } .flywheel,
      (cycleStart_takes hheld hturn).trans (congrArg _ (takeAdvance_of_end hend (by rw [hmode]; rfl)))⟩

theorem syncEdge_takes (hedge : s.levelChange = some .edge) (hfirings : ∀ k live, ¬ s.firing k s.phase live) (hturn : s.noHanding) :
    exec .syncEdge s = .next s.takeEdge := by
  rw [exec_syncEdge, execSyncEdge, State.edgeDue, hedge, firstFiring_eq_none hfirings]
  exact inTurn_taken (noHanding_iff.mp hturn)

theorem classify_free (h : s.params.clockMode = .free) : s.classify = .freeMode := by
  rw [State.classify, h]

/-- No capture of the current cycle, as the classification tests it (R154). -/
theorem currentCycle_iff {c : Option Capture} :
    (c.map Capture.currentCycle).getD false = false ↔ ∀ r, c = some r → r.currentCycle = false := by
  cases c <;> simp

theorem classify_onTime (h : s.params.clockMode = .synced) (hphase : s.params.cycleLength ≤ s.phase + s.params.syncTolerance) :
    s.classify = .onTime := by
  simp only [State.classify, h]
  exact if_pos (by omega)

theorem classify_late (h : s.params.clockMode = .synced) (hphase : s.phase + s.params.syncTolerance < s.params.cycleLength)
    (hlate : s.startKind = .flywheel ∧ (∀ r, s.capture = some r → r.currentCycle = false) ∧ s.phase ≤ s.params.syncTolerance) :
    s.classify = .late := by
  simp only [State.classify, h, currentCycle_iff]
  rw [if_neg (by omega), if_pos hlate]

theorem classify_early (h : s.params.clockMode = .synced) (hphase : s.phase + s.params.syncTolerance < s.params.cycleLength)
    (hearly : ¬ (s.startKind = .flywheel ∧ (∀ r, s.capture = some r → r.currentCycle = false) ∧
      s.phase ≤ s.params.syncTolerance)) : s.classify = .early := by
  simp only [State.classify, h, currentCycle_iff]
  rw [if_neg (by omega), if_neg hearly]

/-- The edge captured, and then its effect by its classification (R152, R154). -/
theorem takeEdge_eq {x : State} {c : EdgeClass} (hclass : s.classify = c)
    (hx : x =
      { s with
        qualifiedLevel := !s.qualifiedLevel, syncRun := 0, levelChange := none,
        capture := some { cycle := s.cycle, phase := s.phase, time := s.now, classification := c, currentCycle := true } }) :
    s.takeEdge = x.edgeEffect c := by
  subst hclass hx
  rfl

theorem syncEdge_of_firing (h : s.firing k s.phase live) : exec .syncEdge s = .next s := by
  have hsome : s.firstFiring.isNone = false := by
    rw [Option.isNone_eq_false_iff, State.firstFiring, List.find?_isSome]
    exact ⟨k, List.mem_finRange k, by rw [firesAt_eq_some.mpr h]; rfl⟩
  rw [exec_syncEdge, execSyncEdge, hsome, Bool.and_false]
  rfl

/-- Settles O38: the edge by its classification, its turn after the firings, and the change against the polarity. -/
theorem syncEdge : Obligations.SyncEdge := by
  refine ⟨fun s x c hedge hfirings hturn hx => ?_, fun s k live hfires => syncEdge_of_firing hfires, fun s hagainst hturn => ?_⟩
  · rw [syncEdge_takes hedge hfirings hturn]
    refine ⟨fun hmode hc => ?_, fun hmode => ⟨fun hphase hc => ?_, fun hphase => ⟨fun hlate hc => ?_, fun hearly hc => ?_⟩⟩⟩
    · rw [takeEdge_eq ((classify_free hmode).trans hc.symm) hx, hc]
      rfl
    · rw [takeEdge_eq ((classify_onTime hmode hphase).trans hc.symm) hx, hc]
      exact ⟨_, cycleBegun { x with missRun := 0, lossRaised := false } .sync, rfl⟩
    · rw [takeEdge_eq ((classify_late hmode hphase hlate).trans hc.symm) hx, hc]
      rfl
    · rw [takeEdge_eq ((classify_early hmode hphase hearly).trans hc.symm) hx, hc]
      exact ⟨_, cycleBegun { x with missRun := 0, lossRaised := false } .sync, rfl⟩
  · rw [exec_qualifiedLevelChange, execQualifiedLevelChange, hagainst]
    exact inTurn_taken (noHanding_iff.mp hturn)

end Sys2Proof.Machine

/-! The tick and what holds it back (O35, O36). -/

namespace Sys2Proof.Machine

-- One theorem at a time, as in the tests: the memory limit of the check leaves room for few threads.
set_option Elab.async false

variable {s t : State} {c : Instr}

/-! ## A settled state (log 3) -/

theorem settled_iff :
    s.settled = true ↔
      s.lineDue = false ∧ s.replyDue = false ∧ s.completionDue = false ∧ s.timerDue = false ∧ s.clockDue = false ∧
        s.handingDue = false ∧ s.startDue = false := by
  simp [State.settled, and_assoc]

theorem lineDue_eq_false :
    s.lineDue = false ↔
      s.headPort.upDue = false ∧ s.headPort.downDue = false ∧ s.fieldPort.upDue = false ∧ s.fieldPort.downDue = false := by
  simp [State.lineDue, and_assoc]

theorem timerDue_eq_false :
    s.timerDue = false ↔
      (∀ i, s.windowExpires i = none ∧ s.reissueReached i = none ∧ s.lifetimeReached i = none) ∧
        ∀ n, s.quietReached n = false := by
  unfold State.timerDue
  rw [Bool.or_eq_false_iff, List.any_eq_false, List.any_eq_false]
  refine and_congr ?_ ?_
  · simp [mem_allSlots, and_assoc]
  · constructor
    · intro h n
      by_cases hn : 1 ≤ n ∧ n ≤ 62
      · exact Bool.eq_false_iff.mpr (h n (List.mem_map.mpr ⟨⟨n - 1, by omega⟩, List.mem_finRange _, by simp; omega⟩))
      · simp [State.quietReached, nodeIndex_eq_none.mpr hn]
    · exact fun h n _ => by simp [h n]

theorem clockDue_eq_false :
    s.clockDue = false ↔ s.advanceHeld = false ∧ s.levelChange = none ∧ s.firstFiring = none := by
  simp [State.clockDue, State.levelDue, and_assoc]

theorem handingDue_eq_false :
    s.handingDue = false ↔ s.takeReady = false ∧ s.flagsNoticeReady = false ∧ s.grantNoticeNode = none := by
  simp [State.handingDue, and_assoc]

theorem startDue_eq_false : s.startDue = false ↔ s.headStart = none ∧ s.fieldChoice = none := by
  simp [State.startDue]

/-- The intake's first frame is not taken while it is not ready (R21). -/
theorem takeDirective_of_not_ready (h : s.takeReady = false) (test : Byte → Bool) (body : List Byte → State → Reply) :
    s.takeDirective test body = .next s := by
  have hready : s.directiveReady test = none := by
    unfold State.directiveReady
    cases hi : s.intake with
    | nil => rfl
    | cons d rest =>
      refine if_neg fun ⟨_, _, hfree⟩ => ?_
      simp [State.takeReady, hi, hfree] at h
  rw [State.takeDirective, hready]

theorem takeRequest_of_not_ready (h : s.takeReady = false) : exec .takeRequest s = .next s := by
  rw [exec_takeRequest, execTakeRequest]
  cases hadmission : s.admission with
  | some t =>
    obtain ⟨f, rest, p, i, hintake, hkind, hjudge, -, -⟩ := admission_some hadmission
    have hclaim : s.intakeClaims = false := noIntakeClaim_iff.mp (.inr ⟨f, rest, p, hintake, hkind, hjudge⟩)
    simp [State.takeReady, hintake, hclaim] at h
  | none =>
    cases hrefusal : s.refusal with
    | none => rfl
    | some t =>
      obtain ⟨f, rest, code, hintake, -⟩ := refusal_some hrefusal
      exact if_neg fun hfree => by simp [State.takeReady, hintake, hfree] at h

/-- In a settled state no event that comes about by itself has an effect (log 3). -/
theorem exec_of_settled (h : s.settled = true) (hitself : ofItself c = true) : exec c s = .next s := by
  obtain ⟨hline, -, hcompletion, htimer, hclock, hhanding, hstart⟩ := settled_iff.mp h
  obtain ⟨hheadUp, hheadDown, hfieldUp, hfieldDown⟩ := lineDue_eq_false.mp hline
  obtain ⟨hheadSent, hfieldSent⟩ := Bool.or_eq_false_iff.mp hcompletion
  obtain ⟨hslots, hquiet⟩ := timerDue_eq_false.mp htimer
  obtain ⟨hheld, hlevel, hfiring⟩ := clockDue_eq_false.mp hclock
  obtain ⟨htake, hflags, hgrant⟩ := handingDue_eq_false.mp hhanding
  obtain ⟨hhead, hchoice⟩ := startDue_eq_false.mp hstart
  have hfield : s.fieldStart = none := by rw [State.fieldStart, hchoice]; rfl
  have directive (code : Byte) (body : List Byte → State → Reply) : s.directive code body = .next s :=
    takeDirective_of_not_ready htake _ body
  have turn {b : Bool} (hb : b = false) (u : State) : s.inTurn b u = .next s := by rw [hb]; rfl
  have sent (b : Bool) (u : State) : s.inTurn (s.fieldPort.completing s.now && b) u = .next s := turn (by simp [hfieldSent]) u
  cases c with
  | reset | requestArrival | directiveArrival | malformedFrame | answerArrival | deferArrival => exact nomatch hitself
  | reportArrival | startPatternSeen | tick => exact nomatch hitself
  | headLineDown => exact turn hheadDown _
  | headLineUp => exact turn hheadUp _
  | fieldLineDown => exact turn hfieldDown _
  | fieldLineUp => exact turn hfieldUp _
  | issueSelection => rw [exec_issueSelection, execIssueSelection, hfield]
  | broadcastSelection => rw [exec_broadcastSelection, execBroadcastSelection, hfield]
  | receiptTransmitStart => rw [exec_receiptTransmitStart, execReceiptTransmitStart, hfield]
  | issueTransmitCompletion =>
    rw [exec_issueTransmitCompletion, execIssueTransmitCompletion]
    split <;> simp only [sent]
  | broadcastTransmitCompletion =>
    rw [exec_broadcastTransmitCompletion, execBroadcastTransmitCompletion]
    (split <;> try split) <;> simp only [Bool.and_assoc, sent]
  | receiptTransmitCompletion =>
    rw [exec_receiptTransmitCompletion, execReceiptTransmitCompletion]
    split <;> simp only [turn hfieldSent]
  | headTransmitStart => rw [exec_headTransmitStart, execHeadTransmitStart, hhead]
  | outcomeTransmitCompletion =>
    rw [exec_outcomeTransmitCompletion, execOutcomeTransmitCompletion]
    split <;> simp only [turn hheadSent]
  | reportDeliveryCompletion =>
    rw [exec_reportDeliveryCompletion, execReportDeliveryCompletion]
    split <;> simp only [turn hheadSent]
  | controlTransmitCompletion =>
    rw [exec_controlTransmitCompletion, execControlTransmitCompletion]
    split <;> simp only [turn hheadSent]
  | answerWindowExpiry i => rw [exec_answerWindowExpiry, execAnswerWindowExpiry, (hslots i).1]
  | reissueDue i => rw [exec_reissueDue, execReissueDue, (hslots i).2.1]
  | lifetimeEnd i => rw [exec_lifetimeEnd, execLifetimeEnd, (hslots i).2.2]
  | quietUntilReached n => exact turn (hquiet n) _
  | cycleStart => exact turn hheld _
  | syncEdge => exact turn (by simp [State.edgeDue, hlevel]) _
  | qualifiedLevelChange => exact turn (by simp [hlevel]) _
  | scheduleFiring k => exact turn (by simp [hfiring]) _
  | takeRequest => exact takeRequest_of_not_ready htake
  | unknownDirective =>
    show execUnknownDirective s = .next s
    exact takeDirective_of_not_ready htake _ _
  | flagsRaisedNoticePlaced => rw [exec_flagsRaisedNoticePlaced, execFlagsRaisedNoticePlaced, hflags]; rfl
  | grantWantedNoticePlaced => rw [exec_grantWantedNoticePlaced, execGrantWantedNoticePlaced, hgrant]
  | _ => exact directive _ _

/-- Settles O36: what a settled state leaves to be taken, and the tick in every other state. -/
theorem settledLeavesNothingToTake : Obligations.SettledLeavesNothingToTake :=
  ⟨fun _ _ h hitself => exec_of_settled h hitself, fun _ _ _ _ _ h => if_neg (by simp [h])⟩

/-! ## The tick -/

theorem exec_tick (s : State) (sync headSignal fieldSignal edgeFirst : Bool) :
    exec (.tick sync headSignal fieldSignal edgeFirst) s =
      s.whenever s.settled (s.ticked sync headSignal fieldSignal edgeFirst) := rfl

/-- The SYNC qualifier's sample, case by case (R151). -/
theorem sampleSync_cases (s : State) (level : Bool) :
    s.sampled = false ∧ s.sampleSync level = { s with sampled := true, qualifiedLevel := level, syncRun := 0 } ∨
      s.sampled = true ∧ level = s.qualifiedLevel ∧ s.sampleSync level = { s with syncRun := 0 } ∨
      s.sampled = true ∧ level ≠ s.qualifiedLevel ∧ s.syncRun + 1 < s.params.syncFilter ∧
        s.sampleSync level = { s with syncRun := s.syncRun + 1 } ∨
      s.sampled = true ∧ level ≠ s.qualifiedLevel ∧ s.params.syncFilter ≤ s.syncRun + 1 ∧
        s.sampleSync level =
          { s with syncRun := s.syncRun + 1, levelChange := some (changeFrom s.params.syncPolarity s.qualifiedLevel) } := by
  unfold State.sampleSync
  by_cases hsampled : s.sampled = true
  · refine .inr ?_
    rw [if_pos hsampled]
    by_cases hlevel : level = s.qualifiedLevel
    · exact .inl ⟨hsampled, hlevel, if_pos hlevel⟩
    · rw [if_neg hlevel]
      by_cases hfilter : s.params.syncFilter ≤ s.syncRun + 1
      · exact .inr (.inr ⟨hsampled, hlevel, hfilter, by rw [if_pos hfilter]⟩)
      · exact .inr (.inl ⟨hsampled, hlevel, by omega, by rw [if_neg hfilter]⟩)
  · exact .inl ⟨by simpa using hsampled, if_neg hsampled⟩

/-- The tick's advance is held at the cycle length and behind an edge that goes first (R149, R159). -/
theorem advance_holds {edgeFirst : Bool}
    (h : s.params.cycleLength ≤ s.phase + 1 ∨ edgeFirst = true ∧ s.levelChange = some .edge) :
    s.advance edgeFirst = { s with advanceHeld := true } :=
  if_pos (by simpa [State.atCycleEnd, State.edgeDue] using h)

theorem advance_made {edgeFirst : Bool} (hinside : s.phase + 1 < s.params.cycleLength)
    (hfree : ¬ (edgeFirst = true ∧ s.levelChange = some .edge)) : s.advance edgeFirst = { s with phase := s.phase + 1 } :=
  if_neg (by simpa [State.atCycleEnd, State.edgeDue] using ⟨hinside, not_and.mp hfree⟩)

theorem changeFrom_eq (p : Polarity) (level : Bool) :
    changeFrom p level = if p = .rising ↔ level = false then .edge else .against := by
  cases p <;> cases level <;> rfl

/-- What a sample makes of the qualifier when no change is under way (R151). -/
theorem sampleSync_qualifier {level : Bool} (hnone : s.levelChange = none) :
    (s.sampleSync level).sampled = true ∧
      (s.sampled = false → (s.sampleSync level).qualifiedLevel = level ∧ (s.sampleSync level).syncRun = 0) ∧
      (s.sampled = true → (s.sampleSync level).qualifiedLevel = s.qualifiedLevel ∧
        (s.sampleSync level).syncRun = if level = s.qualifiedLevel then 0 else s.syncRun + 1) ∧
      (s.sampled = true → level ≠ s.qualifiedLevel → s.params.syncFilter ≤ s.syncRun + 1 →
        (s.sampleSync level).levelChange =
          some (if s.params.syncPolarity = .rising ↔ s.qualifiedLevel = false then .edge else .against)) ∧
      (s.sampled = false ∨ level = s.qualifiedLevel ∨ s.syncRun + 1 < s.params.syncFilter →
        (s.sampleSync level).levelChange = none) := by
  rcases sampleSync_cases s level with ⟨hsampled, h⟩ | ⟨hsampled, hlevel, h⟩ | ⟨hsampled, hlevel, hfilter, h⟩ |
    ⟨hsampled, hlevel, hfilter, h⟩
  · simp [h, hsampled, hnone]
  · subst hlevel
    simp [h, hsampled, hnone]
  · simp [h, hsampled, hlevel, hnone, hfilter]
  · simp [h, hsampled, hlevel, changeFrom_eq, hfilter]

/-- The state of a tick before its sample: the count and both ports (R7, R147). -/
def State.counted (s : State) (headSignal fieldSignal : Bool) : State :=
  { s with now := s.now + 1, headPort := s.headPort.sample headSignal, fieldPort := s.fieldPort.sample fieldSignal }

theorem ticked_eq (s : State) (sync headSignal fieldSignal edgeFirst : Bool) :
    s.ticked sync headSignal fieldSignal edgeFirst =
      State.advance ((s.counted headSignal fieldSignal).sampleSync sync) edgeFirst := rfl

/-- A tick touches the count, the ports, the qualifier and the phase alone. -/
theorem ticked_others {sync headSignal fieldSignal edgeFirst : Bool} (h : t = s.ticked sync headSignal fieldSignal edgeFirst) :
    t =
      { s with
        now := t.now, headPort := t.headPort, fieldPort := t.fieldPort, sampled := t.sampled,
        qualifiedLevel := t.qualifiedLevel, syncRun := t.syncRun, levelChange := t.levelChange,
        phase := t.phase, advanceHeld := t.advanceHeld } := by
  have hcounted : (s.counted headSignal fieldSignal).sampleSync sync =
      { s with
        now := s.now + 1, headPort := s.headPort.sample headSignal, fieldPort := s.fieldPort.sample fieldSignal,
        sampled := ((s.counted headSignal fieldSignal).sampleSync sync).sampled,
        qualifiedLevel := ((s.counted headSignal fieldSignal).sampleSync sync).qualifiedLevel,
        syncRun := ((s.counted headSignal fieldSignal).sampleSync sync).syncRun,
        levelChange := ((s.counted headSignal fieldSignal).sampleSync sync).levelChange } := by
    rcases sampleSync_cases (s.counted headSignal fieldSignal) sync with
      ⟨-, h⟩ | ⟨-, -, h⟩ | ⟨-, -, -, h⟩ | ⟨-, -, -, h⟩ <;> rw [h] <;> rfl
  subst h
  rw [ticked_eq, hcounted, State.advance]
  split <;> rfl

/-- Settles O35: the sample by its cases, and then the advance held or made. -/
theorem tick : Obligations.Tick := by
  intro s sync headSignal fieldSignal edgeFirst hsettled
  obtain ⟨-, -, -, -, hclock, -, -⟩ := settled_iff.mp hsettled
  obtain ⟨hheld, hlevel, -⟩ := clockDue_eq_false.mp hclock
  obtain ⟨hsampled, hfirst, hlater, hchange, hnone⟩ :=
    sampleSync_qualifier (s := s.counted headSignal fieldSignal) (level := sync) hlevel
  have hothers := ticked_others (t := s.ticked sync headSignal fieldSignal edgeFirst) rfl
  refine ⟨s.ticked sync headSignal fieldSignal edgeFirst, if_pos hsettled, ?_, ?_, ?_, ?_, ?_, ?_, ?_, ?_, ?_, ?_, hothers⟩
  · simp [ticked_eq, State.counted]
  · simp [ticked_eq, State.counted, Port.sample]
  · simp [ticked_eq, State.counted, Port.sample]
  · simpa [ticked_eq] using hsampled
  · rw [ticked_eq, State.advance_qualifiedLevel, State.advance_syncRun]
    exact hfirst
  · rw [ticked_eq, State.advance_qualifiedLevel, State.advance_syncRun]
    exact hlater
  · rw [ticked_eq, State.advance_levelChange]
    exact hchange
  · rw [ticked_eq, State.advance_levelChange]
    exact hnone
  · intro hhold
    rw [ticked_eq, advance_holds (by simpa [ticked_eq, State.counted] using hhold)]
    exact ⟨by simp [State.counted], rfl⟩
  · intro hinside hfree
    rw [ticked_eq, advance_made (by simpa [State.counted] using hinside) (by simpa [ticked_eq, State.counted] using hfree)]
    exact ⟨by simp [State.counted], by simpa [State.counted] using hheld⟩

end Sys2Proof.Machine

/-! The raise of a flag and Clear Flags (O48). -/

namespace Sys2Proof.Machine

-- One theorem at a time, as in the tests: the memory limit of the check leaves room for few threads.
set_option Elab.async false

variable {s : State}

theorem flagNumber_injective : Function.Injective flagNumber := by
  intro f g
  have heq : flagNumber f = flagNumber g ↔ f = g := by cases f <;> cases g <;> decide
  exact heq.mp

/-! ## The pairs of an argument -/

theorem clearPairs_triples (triples : List (Byte × Byte × Byte)) :
    clearPairs (triples.flatMap fun t => [t.1, t.2.1, t.2.2]) = triples.map fun t => (t.1.toNat, beNat [t.2.1, t.2.2]) := by
  induction triples with
  | nil => rfl
  | cons t rest ih => simp [clearPairs, ih]

/-- The three bytes of a pair: its flag number and its stamp (R14). -/
def pairBytes (p : Flag × BitVec 16) : Byte × Byte × Byte :=
  (byte (flagNumber p.1).val, BitVec.ofNat 8 (p.2.toNat / 256), BitVec.ofNat 8 p.2.toNat)

theorem pairImage_eq (p : Flag × BitVec 16) :
    byte (flagNumber p.1).val :: beBytes 2 p.2.toNat = [(pairBytes p).1, (pairBytes p).2.1, (pairBytes p).2.2] := by
  simp [pairBytes, beBytes]

theorem clearPairs_pairs (pairs : List (Flag × BitVec 16)) :
    clearPairs (pairs.flatMap fun p => byte (flagNumber p.1).val :: beBytes 2 p.2.toNat) =
      pairs.map fun p => ((flagNumber p.1).val, p.2.toNat) := by
  have hbytes : (pairs.flatMap fun p => byte (flagNumber p.1).val :: beBytes 2 p.2.toNat) =
      (pairs.map pairBytes).flatMap fun t => [t.1, t.2.1, t.2.2] := by
    rw [List.flatMap_map]
    exact congrArg (pairs.flatMap ·) (funext pairImage_eq)
  rw [hbytes, clearPairs_triples, List.map_map]
  refine List.map_congr_left fun p _ => ?_
  have hflag := (flagNumber p.1).isLt
  have hstamp := p.2.isLt
  simp [pairBytes, byte, beNat]
  omega

theorem length_flatMap_three {α : Type} {g : α → List Byte} (h : ∀ x, (g x).length = 3) (l : List α) :
    (l.flatMap g).length = 3 * l.length := by
  induction l with
  | nil => rfl
  | cons x l ih => rw [List.flatMap_cons, List.length_append, h, ih, List.length_cons]; omega

/-- One to six pairs that name each flag once are an argument in range (R14, R36). -/
theorem clearArgumentValid_pairs {pairs : List (Flag × BitVec 16)} (hsome : 1 ≤ pairs.length) (hnodup : (pairs.map Prod.fst).Nodup) :
    clearArgumentValid (pairs.flatMap fun p => byte (flagNumber p.1).val :: beBytes 2 p.2.toNat) = true := by
  have hnumbers : ((pairs.map Prod.fst).map flagNumber).Nodup := hnodup.map flagNumber_injective
  have hmost : pairs.length ≤ 6 := by simpa using hnumbers.length_le_card
  have hlength := length_flatMap_three (g := fun p : Flag × BitVec 16 => byte (flagNumber p.1).val :: beBytes 2 p.2.toNat)
    (fun p => congrArg List.length (pairImage_eq p)) pairs
  have hvalues : (pairs.map fun p => (flagNumber p.1).val).Nodup := by
    simpa [Function.comp_def] using hnumbers.map Fin.val_injective
  rw [clearArgumentValid, clearPairs_pairs, hlength]
  simp only [Bool.and_eq_true, decide_eq_true_eq, List.all_eq_true, List.map_map, Function.comp_def]
  refine ⟨⟨⟨by omega, by omega, by omega⟩, fun x hx => ?_⟩, hvalues⟩
  obtain ⟨p, -, rfl⟩ := List.mem_map.mp hx
  exact (flagNumber p.1).isLt

/-- A number above 5 or one repeated is out of range (R36). -/
theorem clearArgumentValid_triples {triples : List (Byte × Byte × Byte)}
    (h : (∃ t ∈ triples, 5 < t.1.toNat) ∨ ¬ (triples.map fun t => t.1).Nodup) :
    clearArgumentValid (triples.flatMap fun t => [t.1, t.2.1, t.2.2]) = false := by
  rw [Bool.eq_false_iff, clearArgumentValid, clearPairs_triples]
  simp only [ne_eq, Bool.and_eq_true, decide_eq_true_eq, List.all_eq_true, List.map_map, Function.comp_def]
  rintro ⟨⟨-, hrange⟩, hnodup⟩
  rcases h with ⟨t, ht, hout⟩ | hrepeat
  · have hin : t.1.toNat < 6 := hrange _ (List.mem_map.mpr ⟨t, ht, rfl⟩)
    omega
  · refine hrepeat (List.Nodup.of_map BitVec.toNat ?_)
    simpa [Function.comp_def] using hnodup

/-! ## Clearing -/

theorem flag_get_set (v : Vector FlagRecord 6) (f g : Flag) (r : FlagRecord) :
    (v.set (flagNumber f) r)[flagNumber g] = if f = g then r else v[flagNumber g] := by
  simp only [flags_get_set, flagNumber_injective.eq_iff]

theorem clearPair_eq (r : FlagRecord) (stamp : BitVec 16) :
    clearPair r stamp.toNat =
      (if r.raised = true ∧ r.stamp = stamp then FlagRecord.clear else r,
        if r.raised = false then 0x02 else if r.stamp = stamp then 0x00 else 0x01) := by
  unfold clearPair
  cases r.raised <;> by_cases h : r.stamp = stamp <;> simp [h, BitVec.toNat_inj]

theorem clearFlagPairs_cons (v : Vector FlagRecord 6) (f : Flag) (stamp : Nat) (rest : List (Nat × Nat)) :
    clearFlagPairs v (((flagNumber f).val, stamp) :: rest) =
      ((clearFlagPairs (v.set (flagNumber f) (clearPair v[flagNumber f] stamp).1) rest).1,
        (clearPair v[flagNumber f] stamp).2 ::
          (clearFlagPairs (v.set (flagNumber f) (clearPair v[flagNumber f] stamp).1) rest).2) := by
  rw [clearFlagPairs, dif_pos (flagNumber f).isLt]
  rfl

/-- Pairs that name each flag once are judged one by one on the records found (R36). -/
theorem clearFlagPairs_pairs {pairs : List (Flag × BitVec 16)} (hnodup : (pairs.map Prod.fst).Nodup) (v : Vector FlagRecord 6) :
    (∀ p ∈ pairs, (clearFlagPairs v (pairs.map fun p => ((flagNumber p.1).val, p.2.toNat))).1[flagNumber p.1] =
        (clearPair v[flagNumber p.1] p.2.toNat).1) ∧
      (∀ f, f ∉ pairs.map Prod.fst →
        (clearFlagPairs v (pairs.map fun p => ((flagNumber p.1).val, p.2.toNat))).1[flagNumber f] = v[flagNumber f]) ∧
      (clearFlagPairs v (pairs.map fun p => ((flagNumber p.1).val, p.2.toNat))).2 =
        pairs.map fun p => (clearPair v[flagNumber p.1] p.2.toNat).2 := by
  induction pairs generalizing v with
  | nil => exact ⟨nofun, fun _ _ => rfl, rfl⟩
  | cons q rest ih =>
    obtain ⟨hnew, hrest⟩ := List.nodup_cons.mp hnodup
    obtain ⟨hnamed, hother, hresult⟩ := ih hrest (v.set (flagNumber q.1) (clearPair v[flagNumber q.1] q.2.toNat).1)
    have hkept (p) (hp : p ∈ rest) : q.1 ≠ p.1 := fun heq => hnew (heq ▸ List.mem_map_of_mem hp)
    rw [List.map_cons, clearFlagPairs_cons]
    refine ⟨fun p hp => ?_, fun f hf => ?_, ?_⟩
    · rcases List.mem_cons.mp hp with rfl | hp
      · rw [hother _ hnew, flag_get_set, if_pos rfl]
      · rw [hnamed p hp, flag_get_set, if_neg (hkept p hp)]
    · obtain ⟨hq, hf⟩ := not_or.mp (mt List.mem_cons.mpr hf)
      rw [hother f hf, flag_get_set, if_neg (Ne.symm hq)]
    · rw [hresult, List.map_cons]
      exact congrArg _ (List.map_congr_left fun p hp => by rw [flag_get_set, if_neg (hkept p hp)])

/-- The result byte of a pair, on the record its flag has (R36). -/
def pairResult (s : State) (p : Flag × BitVec 16) : Byte :=
  if (s.flag p.1).raised = false then 0x02 else if (s.flag p.1).stamp = p.2 then 0x00 else 0x01

theorem pairResult_eq_one {p : Flag × BitVec 16} :
    pairResult s p = 0x01 ↔ (s.flag p.1).raised = true ∧ (s.flag p.1).stamp ≠ p.2 := by
  unfold pairResult
  cases (s.flag p.1).raised <;> by_cases h : (s.flag p.1).stamp = p.2 <;> simp [h]

/-- PARTIAL exactly when a flag named is still raised (R36). -/
theorem clearStatus_eq {pairs : List (Flag × BitVec 16)} {status : AckStatus}
    (hpartial : (∃ p ∈ pairs, (s.flag p.1).raised = true ∧ (s.flag p.1).stamp ≠ p.2) → status = .partialDone)
    (hdone : (∀ p ∈ pairs, (s.flag p.1).raised = true → (s.flag p.1).stamp = p.2) → status = .done) :
    (if (pairs.map (pairResult s)).contains 0x01 then AckStatus.partialDone else .done) = status := by
  have hiff : (pairs.map (pairResult s)).contains 0x01 = true ↔
      ∃ p ∈ pairs, (s.flag p.1).raised = true ∧ (s.flag p.1).stamp ≠ p.2 := by
    simp only [List.contains_iff_mem, List.mem_map, pairResult_eq_one]
  by_cases hleft : ∃ p ∈ pairs, (s.flag p.1).raised = true ∧ (s.flag p.1).stamp ≠ p.2
  · rw [if_pos (hiff.mpr hleft), hpartial hleft]
  · rw [if_neg (mt hiff.mp hleft), hdone fun p hp hraised => by_contra fun hne => hleft ⟨p, hp, hraised, hne⟩]

theorem exec_clearFlags (s : State) : exec .clearFlags s = s.directive 0x05 clearFlagsBody := rfl

/-- Settles O48: the raise field by field, the pairs judged one by one, and the arguments out of range. -/
theorem raiseAndClearFlags : Obligations.RaiseAndClearFlags := by
  refine ⟨fun s f => ⟨rfl, ?_, fun g hg => ?_, ?_, rfl⟩, fun s d pairs status h hsome hnodup hpayload hpartial hdone => ?_,
    fun s d triples h hpayload hbad => ?_⟩
  · rw [State.flag_raiseFlag, if_pos rfl]
    rfl
  · rw [State.flag_raiseFlag, if_neg (Ne.symm hg)]
  · exact Iff.of_eq (Bool.or_eq_true _ _)
  · obtain ⟨hnamed, hother, hresult⟩ := clearFlagPairs_pairs hnodup s.flags
    have hbytes : (clearFlagPairs s.flags (pairs.map fun p => ((flagNumber p.1).val, p.2.toNat))).2 = pairs.map (pairResult s) :=
      hresult.trans (List.map_congr_left fun p _ => by rw [clearPair_eq]; rfl)
    have hbody : clearFlagsBody d.payload s.taken =
        { state := { s.taken with flags := (clearFlagPairs s.flags (pairs.map fun p => ((flagNumber p.1).val, p.2.toNat))).1 },
          status := status, result := pairs.map (pairResult s) } := by
      rw [← clearStatus_eq hpartial hdone, ← hbytes, hpayload, clearFlagsBody, if_pos (clearArgumentValid_pairs hsome hnodup),
        clearPairs_pairs]
      rfl
    refine ⟨_, (exec_clearFlags s).trans (directive_executes h hbody rfl), fun p hp hraised hstamp => ?_, fun p hp hleft => ?_,
      fun f hf => hother f hf, rfl⟩
    · refine (hnamed p hp).trans ?_
      rw [clearPair_eq]
      exact if_pos ⟨hraised, hstamp⟩
    · refine (hnamed p hp).trans ?_
      rw [clearPair_eq]
      refine if_neg fun ⟨hraised, hstamp⟩ => ?_
      exact hleft.elim (fun hclear => absurd (hclear.symm.trans hraised) Bool.false_ne_true) fun hne => hne hstamp
  · exact (exec_clearFlags s).trans (directive_badArgument h (by
      rw [hpayload, clearFlagsBody, clearArgumentValid_triples hbad]
      rfl))

end Sys2Proof.Machine

/-! Cancel Node (O52): one exchange after another, oldest first. -/

namespace Sys2Proof.Machine

-- One theorem at a time, as in the tests: the memory limit of the check leaves room for few threads.
set_option Elab.async false

variable {s t u : State} {i : Slot} {e : Exchange} {n : Nat} {o : OutcomeCode} {d : Counter}

/-! ## The end of one exchange -/

/-- The state in which the end of an exchange leaves its node, where it changes it (R110, R118). -/
def Exchange.endState (e : Exchange) : Option NodeState :=
  match e.state with
  | .waiting => none
  | .issued => some (.quiet e.answerDue)
  | .deferred => some .idle
  | .ready => some .idle
  | .concluded => none

theorem endExchange_of_none (hopen : e.state ≠ .concluded) (h : e.endState = none) : s.endExchange i e o = s.conclude i e o := by
  unfold Exchange.endState at h
  unfold State.endExchange
  cases hst : e.state <;> simp_all

theorem endExchange_of_some {st : NodeState} (hfield : e.state = .issued → e.node ≠ 63) (h : e.endState = some st) :
    s.endExchange i e o = (s.conclude i e o).setNodeState e.node st := by
  unfold Exchange.endState at h
  unfold State.endExchange
  cases hst : e.state <;> simp_all [Config.broadcastNode]

/-- An exchange whose end changes its node is the one its node names (R63). -/
theorem State.ExchangeLaw.node_of_endState (law : s.ExchangeLaw) (hs : s.slot i = some e) (hfield : e.node ≠ 63)
    (h : e.endState ≠ none) : (s.node e.node).state.slot? = some i := by
  unfold Exchange.endState at h
  cases hst : e.state with
  | waiting => simp [hst] at h
  | concluded => simp [hst] at h
  | issued => rw [(law.occupied e.node i).mpr ⟨hfield, e, hs, rfl, hst⟩]; rfl
  | deferred => rw [(law.held e.node i).mpr ⟨e, hs, rfl, .inl hst⟩]; rfl
  | ready => rw [(law.held e.node i).mpr ⟨e, hs, rfl, .inr hst⟩]; rfl

/-! ## Counting several times -/

/-- Several counts of one event (R37). -/
def State.tallies (s : State) (c : Counter) (k : Nat) : State := Nat.iterate (State.tally · c) k s

theorem counters_tally_congr (h : t.counters = u.counters) (c : Counter) : (t.tally c).counters = (u.tally c).counters := by
  rw [State.tally_counters, State.tally_counters, h]

theorem tallies_succ (s : State) (c : Counter) (k : Nat) : s.tallies c (k + 1) = (s.tallies c k).tally c :=
  Function.iterate_succ_apply' _ k s

theorem counters_tallies_tally (h : t.counters = (u.tally d).counters) (c : Counter) (k : Nat) :
    (t.tallies c k).counters = ((u.tallies c k).tally d).counters := by
  induction k with
  | zero => exact h
  | succ k ih => rw [tallies_succ, tallies_succ, counters_tally_congr ih c, tally_comm]

/-! ## One exchange after another -/

/-- A state that differs from another in the exchanges, nodes, collections, items and counters alone. -/
def State.ExchangesOnly (s t : State) : Prop :=
  t =
    { s with
      slots := t.slots, nodes := t.nodes, pendingOrder := t.pendingOrder, deferralList := t.deferralList,
      delivery := t.delivery, counters := t.counters }

theorem exchangesOnly_trans (h : s.ExchangesOnly t) (h' : t.ExchangesOnly u) : s.ExchangesOnly u :=
  Eq.trans h' (congrArg (fun v : State =>
    { v with
      slots := u.slots, nodes := u.nodes, pendingOrder := u.pendingOrder, deferralList := u.deferralList,
      delivery := u.delivery, counters := u.counters }) h)

/-- A state u once the exchanges of the slots l, all to node n, have been cancelled in s. -/
structure State.Cancelled (s : State) (n : Nat) (l : List Slot) (u : State) : Prop where
  concluded : ∀ i ∈ l, ∀ e, s.slot i = some e → u.slot i = some (concludedRecord e .cancelled)
  kept : ∀ i, i ∉ l → u.slot i = s.slot i
  ended : ∀ i ∈ l, ∀ e st, s.slot i = some e → e.endState = some st → u.node n = { s.node n with state := st }
  untouched : (∀ i ∈ l, ∀ e, s.slot i = some e → e.endState = none) → u.node n = s.node n
  otherNodes : ∀ m, m ≠ n → u.node m = s.node m
  pendingOrder : u.pendingOrder = s.pendingOrder.filter (· ∉ l)
  deferralList : u.deferralList = s.deferralList.filter (· ∉ l)
  delivery : u.delivery = s.delivery ++ l.map .conclusion
  counters : u.counters = (s.tallies (.outcomes .cancelled) l.length).counters
  others : s.ExchangesOnly u

theorem filter_not_mem_append (l l' : List Slot) (i : Slot) :
    (l'.filter (· ∉ l)).filter (· != i) = l'.filter (· ∉ l ++ [i]) := by
  rw [List.filter_filter]
  refine List.filter_congr fun j _ => ?_
  by_cases hj : j = i <;> simp [hj]

/-- What one cancellation changes beside its node. -/
structure State.ConcludedIn (s : State) (i : Slot) (e : Exchange) (o : OutcomeCode) (t : State) : Prop where
  slot : ∀ j, t.slot j = if i = j then some (concludedRecord e o) else s.slot j
  pendingOrder : t.pendingOrder = s.pendingOrder.filter (· != i)
  deferralList : t.deferralList = s.deferralList.filter (· != i)
  delivery : t.delivery = s.delivery ++ [.conclusion i]
  counters : t.counters = (s.tally (.outcomes o)).counters
  others : s.ExchangesOnly t

theorem concludedIn_conclude (s : State) (i : Slot) (e : Exchange) (o : OutcomeCode) : s.ConcludedIn i e o (s.conclude i e o) :=
  ⟨fun j => State.slot_conclude s i j e o, rfl, rfl, rfl, rfl, rfl⟩

theorem concludedIn_conclude_node (s : State) (i : Slot) (e : Exchange) (o : OutcomeCode) (n : Nat) (st : NodeState) :
    s.ConcludedIn i e o ((s.conclude i e o).setNodeState n st) :=
  ⟨fun j => State.slot_conclude s i j e o, rfl, rfl, rfl, rfl, rfl⟩

theorem concludedIn_endExchange (hfield : e.node ≠ 63) (hopen : e.state ≠ .concluded) :
    s.ConcludedIn i e o (s.endExchange i e o) := by
  cases hend : e.endState with
  | none => rw [endExchange_of_none hopen hend]; exact concludedIn_conclude s i e o
  | some st => rw [endExchange_of_some (fun _ => hfield) hend]; exact concludedIn_conclude_node s i e o e.node st

theorem node_endExchange_of_none (hopen : e.state ≠ .concluded) (h : e.endState = none) (m : Nat) :
    (s.endExchange i e o).node m = s.node m := by
  rw [endExchange_of_none hopen h]
  rfl

theorem node_endExchange_of_some {st : NodeState} (hrange : 1 ≤ e.node ∧ e.node ≤ 62) (h : e.endState = some st) (m : Nat) :
    (s.endExchange i e o).node m = if e.node = m then { s.node e.node with state := st } else s.node m := by
  rw [endExchange_of_some (fun _ => by omega) h, State.node_setNodeState]
  exact if_congr (by omega) rfl rfl

/-- One more exchange to the node, where at most one changes the node. -/
theorem State.Cancelled.snoc {l : List Slot} (h : s.Cancelled n l u) (hrange : 1 ≤ n ∧ n ≤ 62) (hs : s.slot i = some e)
    (hnode : e.node = n) (hopen : e.state ≠ .concluded) (hnew : i ∉ l)
    (hunique : e.endState ≠ none → ∀ j ∈ l, ∀ f, s.slot j = some f → f.endState = none) :
    s.Cancelled n (l ++ [i]) (u.cancelSlot i) := by
  subst hnode
  have hslot : u.slot i = some e := (h.kept i hnew).trans hs
  have hcancel : u.cancelSlot i = u.endExchange i e .cancelled := by rw [State.cancelSlot, hslot]
  have step : u.ConcludedIn i e .cancelled (u.endExchange i e .cancelled) := concludedIn_endExchange (by omega) hopen
  rw [hcancel]
  exact {
    concluded := fun j hj f hf => by
      rcases List.mem_append.mp hj with hj | hj
      · rw [step.slot, if_neg fun hij : i = j => hnew (hij ▸ hj)]
        exact h.concluded j hj f hf
      · obtain rfl := List.mem_singleton.mp hj
        rw [step.slot, if_pos rfl, Option.some.inj (hs.symm.trans hf)]
    kept := fun j hj => by
      obtain ⟨hold, hne⟩ := not_or.mp (mt List.mem_append.mpr hj)
      rw [step.slot, if_neg fun hij : i = j => hne (List.mem_singleton.mpr hij.symm)]
      exact h.kept j hold
    ended := fun j hj f st hf hend => by
      rcases List.mem_append.mp hj with hj | hj
      · have hnone : e.endState = none := by
          by_contra hsome
          exact absurd (hunique hsome j hj f hf) (by simp [hend])
        rw [node_endExchange_of_none hopen hnone]
        exact h.ended j hj f st hf hend
      · obtain rfl := List.mem_singleton.mp hj
        obtain rfl := Option.some.inj (hs.symm.trans hf)
        rw [node_endExchange_of_some hrange hend, if_pos rfl, h.untouched (hunique (by simp [hend]))]
    untouched := fun hall => by
      rw [node_endExchange_of_none hopen (hall i (by simp) e hs)]
      exact h.untouched fun j hj => hall j (List.mem_append_left _ hj)
    otherNodes := fun m hm => by
      refine Eq.trans ?_ (h.otherNodes m hm)
      cases hend : e.endState with
      | none => exact node_endExchange_of_none hopen hend m
      | some st => exact (node_endExchange_of_some hrange hend m).trans (if_neg (Ne.symm hm))
    pendingOrder := by rw [step.pendingOrder, h.pendingOrder, filter_not_mem_append]
    deferralList := by rw [step.deferralList, h.deferralList, filter_not_mem_append]
    delivery := by rw [step.delivery, h.delivery, List.map_append, List.append_assoc]; rfl
    counters := by
      rw [step.counters, List.length_append, List.length_singleton, tallies_succ]
      exact counters_tally_congr h.counters _
    others := exchangesOnly_trans h.others step.others }

theorem cancelled_nil (s : State) (n : Nat) : s.Cancelled n [] s where
  concluded := nofun
  kept := fun _ _ => rfl
  ended := nofun
  untouched := fun _ => rfl
  otherNodes := fun _ _ => rfl
  pendingOrder := by simp
  deferralList := by simp
  delivery := by simp
  counters := rfl
  others := rfl

/-- The exchanges to a node, cancelled one after another (R119). -/
theorem cancelled_foldl (hrange : 1 ≤ n ∧ n ≤ 62)
    (hunique : ∀ i e, s.slot i = some e → e.node = n → e.endState ≠ none → (s.node n).state.slot? = some i)
    (l : List Slot) (hnodup : l.Nodup) (hl : ∀ i ∈ l, ∃ e, s.slot i = some e ∧ e.node = n ∧ e.state ≠ .concluded) :
    s.Cancelled n l (l.foldl State.cancelSlot s) := by
  induction l using List.reverseRecOn with
  | nil => exact cancelled_nil s n
  | append_singleton l i ih =>
    obtain ⟨hold, -, hdisjoint⟩ := List.nodup_append.mp hnodup
    have hnew : i ∉ l := fun hi => hdisjoint i hi i (by simp) rfl
    obtain ⟨e, hs, hnode, hopen⟩ := hl i (by simp)
    have hl' (j) (hj : j ∈ l) := hl j (List.mem_append_left _ hj)
    rw [List.foldl_append]
    refine (ih hold hl').snoc hrange hs hnode hopen hnew fun hsome j hj f hf => ?_
    obtain ⟨f', hf', hnode', -⟩ := hl' j hj
    obtain rfl := Option.some.inj (hf'.symm.trans hf)
    by_contra hsome'
    have hij : j = i := Option.some.inj ((hunique j f' hf hnode' hsome').symm.trans (hunique i e hs hnode hsome))
    exact hnew (hij ▸ hj)

/-- Settles O52: the exchanges to the node end one after another, and at most one of them changes the node. -/
theorem cancelNode : Obligations.CancelNode := by
  intro s d node hit law h hpayload hlow hhigh hhit
  have hfield : node.toNat ≠ 63 := by omega
  have hmem (i : Slot) : i ∈ hit ↔ ∃ e, s.slot i = some e ∧ e.node = node.toNat ∧ e.state ≠ .concluded := by
    simp [hhit, mem_slotsByAge]
  have hunique (i : Slot) (e : Exchange) (hs : s.slot i = some e) (hnode : e.node = node.toNat) (hsome : e.endState ≠ none) :
      (s.node node.toNat).state.slot? = some i := by
    rw [← hnode] at hfield ⊢
    exact law.node_of_endState hs hfield hsome
  have done := cancelled_foldl (s := s.taken) ⟨hlow, hhigh⟩ hunique hit (hhit ▸ nodup_slotsByAge s _) fun i hi => (hmem i).mp hi
  have hbody : oneByte fieldNodeOf cancelNodeBody d.payload s.taken =
      Reply.done (hit.foldl State.cancelSlot s.taken) [byte hit.length] := by
    rw [hpayload, oneByte_of_read (fieldNodeOf_of_range hlow hhigh), hhit]
    rfl
  have hnone (hst : (s.node node.toNat).state.slot? = none) (i) (hi : i ∈ hit) (e) (hs : s.slot i = some e) : e.endState = none := by
    obtain ⟨e', hs', hnode, -⟩ := (hmem i).mp hi
    obtain rfl := Option.some.inj (hs'.symm.trans hs)
    by_contra hsome
    exact absurd ((hunique i e' hs hnode hsome).symm.trans hst) (by simp)
  refine ⟨_, (exec_cancelNode s).trans (directive_executes h hbody rfl), fun i e hs hnode hopen => ?_, fun i e hs hother => ?_,
    fun i hs => ?_, fun i e hocc hs => ?_, fun i hheld => ?_, fun hfree => ?_, done.otherNodes, ?_⟩
  · exact done.concluded i ((hmem i).mpr ⟨e, hs, hnode, hopen⟩) e hs
  · refine (done.kept i fun hi => ?_).trans hs
    obtain ⟨e', hs', hnode, hopen⟩ := (hmem i).mp hi
    obtain rfl := Option.some.inj (hs'.symm.trans hs)
    exact hother.elim (fun hne => hne hnode) hopen
  · refine (done.kept i fun hi => ?_).trans hs
    obtain ⟨e', hs', -⟩ := (hmem i).mp hi
    exact absurd (hs'.symm.trans hs) (by simp)
  · obtain ⟨-, e', hs', hnode, hissued⟩ := (law.occupied _ i).mp hocc
    obtain rfl := Option.some.inj (hs'.symm.trans hs)
    exact done.ended i ((hmem i).mpr ⟨e', hs, hnode, by simp [hissued]⟩) e' _ hs (by simp [Exchange.endState, hissued])
  · obtain ⟨e, hs, hnode, hst⟩ := (law.held _ i).mp hheld
    have hopen : e.state ≠ .concluded := by rcases hst with hst | hst <;> simp [hst]
    have hend : e.endState = some .idle := by rcases hst with hst | hst <;> simp [Exchange.endState, hst]
    exact done.ended i ((hmem i).mpr ⟨e, hs, hnode, hopen⟩) e _ hs hend
  · refine done.untouched (hnone ?_)
    rcases hfree with hst | ⟨q, hst⟩ <;> rw [hst] <;> rfl
  · have hothers := done.others
    have hcounters := done.counters.trans
      (counters_tallies_tally (t := s.taken) (u := s) (d := .directivesTaken) rfl (.outcomes .cancelled) hit.length)
    unfold State.ExchangesOnly at hothers
    rw [done.pendingOrder, done.deferralList, done.delivery, hcounters] at hothers
    exact congrArg (State.place · (acknowledgeFrame d .done [byte hit.length])) hothers

end Sys2Proof.Machine

/-! The field line's change to DOWN (O13): ISSUED exchanges one after another, oldest first. -/

namespace Sys2Proof.Machine

-- One theorem at a time, as in the tests: the memory limit of the check leaves room for few threads.
set_option Elab.async false

variable {s t u : State} {i j : Slot} {e f : Exchange} {n : Nat} {l : List Slot}

/-! ## The loss of one issue (R122) -/

/-- The record of an ISSUED exchange after the loss of the field line (R122). -/
def lossRecord (e : Exchange) : Exchange :=
  if e.node = 63 then concludedRecord e .lineLost
  else if e.snapshot.silentLimit < e.silentCount + 1 then concludedRecord { e with silentCount := e.silentCount + 1 } .lineLost
  else { e with state := .ready, silentCount := e.silentCount + 1, answerDue := none, reissueDue := none }

/-- The state in which the loss of the field line leaves the node of an ISSUED exchange (R122). -/
def lossState (i : Slot) (e : Exchange) : NodeState :=
  if e.snapshot.silentLimit < e.silentCount + 1 then .idle else .held i

theorem admissionSeq_lossRecord (e : Exchange) : (lossRecord e).admissionSeq = e.admissionSeq := by
  unfold lossRecord
  split
  · rfl
  · split <;> rfl

theorem readyAtLoss_eq (hs : s.slot i = some e) :
    s.readyAtLoss i = (e.node != 63 && decide (e.silentCount + 1 ≤ e.snapshot.silentLimit)) := by
  rw [State.readyAtLoss, hs]

/-- An exchange that the loss makes READY (R122). -/
theorem loseIssue_ready (hs : s.slot i = some e) (hissued : e.state = .issued) (hready : s.readyAtLoss i = true) :
    s.loseIssue i =
        (s.becomeReady i { e with silentCount := e.silentCount + 1 }).setNodeState e.node (.held i) ∧
      e.node ≠ 63 ∧ lossState i e = .held i ∧
      lossRecord e = { e with state := .ready, silentCount := e.silentCount + 1, answerDue := none, reissueDue := none } := by
  rw [readyAtLoss_eq hs, Bool.and_eq_true, bne_iff_ne, decide_eq_true_eq] at hready
  obtain ⟨hfield, hwithin⟩ := hready
  have hlimit : ¬ e.snapshot.silentLimit < e.silentCount + 1 := by omega
  refine ⟨?_, hfield, if_neg hlimit, (if_neg hfield).trans (if_neg hlimit)⟩
  rw [State.loseIssue, hs]
  simp [hissued, Config.broadcastNode, hfield, hlimit]

/-- An exchange that the loss concludes LINE LOST (R122). -/
theorem loseIssue_concludes (hs : s.slot i = some e) (hissued : e.state = .issued) (hlost : s.readyAtLoss i = false) :
    e.node = 63 ∧ s.loseIssue i = s.conclude i e .lineLost ∧ lossRecord e = concludedRecord e .lineLost ∨
      (e.node ≠ 63 ∧ lossState i e = .idle) ∧
        s.loseIssue i = (s.conclude i { e with silentCount := e.silentCount + 1 } .lineLost).setNodeState e.node .idle ∧
        lossRecord e = concludedRecord { e with silentCount := e.silentCount + 1 } .lineLost := by
  rw [readyAtLoss_eq hs] at hlost
  by_cases hnode : e.node = 63
  · refine .inl ⟨hnode, ?_, if_pos hnode⟩
    rw [State.loseIssue, hs]
    simp [hissued, Config.broadcastNode, hnode]
  · have hlimit : e.snapshot.silentLimit < e.silentCount + 1 := by simpa [hnode] using hlost
    refine .inr ⟨⟨hnode, if_pos hlimit⟩, ?_, (if_neg hnode).trans (if_pos hlimit)⟩
    rw [State.loseIssue, hs]
    simp [hissued, Config.broadcastNode, hnode, hlimit]

/-- What the loss of one issue changes, whichever way it goes. -/
structure State.LosesIssue (s : State) (i : Slot) (e : Exchange) (t : State) : Prop where
  slot : ∀ j, t.slot j = if i = j then some (lossRecord e) else s.slot j
  node : ∀ m, t.node m = if e.node = m ∧ m ≠ 63 then { s.node m with state := lossState i e } else s.node m
  pendingOrder : t.pendingOrder =
    if s.readyAtLoss i = true then insertBefore (s.younger e.admissionSeq) i s.pendingOrder else s.pendingOrder
  deferralList : t.deferralList = s.deferralList
  delivery : t.delivery = s.delivery ++ if s.readyAtLoss i = true then [] else [.conclusion i]
  counters : t.counters = if s.readyAtLoss i = true then s.counters else (s.tally (.outcomes .lineLost)).counters
  others : s.ExchangesOnly t

theorem filter_ne_of_not_mem (h : i ∉ l) : l.filter (· != i) = l :=
  List.filter_eq_self.mpr fun _ hj => bne_iff_ne.mpr fun hji => h (hji ▸ hj)

theorem node_setNodeState_of_range (s : State) (hrange : 1 ≤ n ∧ n ≤ 62) (st : NodeState) (m : Nat) :
    (s.setNodeState n st).node m = if n = m ∧ m ≠ 63 then { s.node m with state := st } else s.node m := by
  rw [State.node_setNodeState]
  by_cases h : n = m
  · subst h
    rw [if_pos ⟨rfl, hrange⟩, if_pos ⟨rfl, by omega⟩]
  · rw [if_neg fun hx => h hx.1, if_neg fun hx => h hx.1]

theorem loseIssue_changes (hs : s.slot i = some e) (hissued : e.state = .issued) (hrange : 1 ≤ e.node ∧ e.node ≤ 63)
    (hpending : i ∉ s.pendingOrder) (hdeferral : i ∉ s.deferralList) : s.LosesIssue i e (s.loseIssue i) := by
  cases hready : s.readyAtLoss i with
  | true =>
    obtain ⟨hlose, hfield, hstate, hrecord⟩ := loseIssue_ready hs hissued hready
    rw [hlose]
    exact {
      slot := fun j => by rw [hrecord]; exact State.slot_becomeReady s i j _
      node := fun m => by rw [hstate]; exact node_setNodeState_of_range _ (by omega) _ m
      pendingOrder := by rw [if_pos hready]; rfl
      deferralList := filter_ne_of_not_mem hdeferral
      delivery := by rw [if_pos hready, List.append_nil]; rfl
      counters := by rw [if_pos hready]; rfl
      others := rfl }
  | false =>
    have hlost : ¬ s.readyAtLoss i = true := by simp [hready]
    rcases loseIssue_concludes hs hissued hready with ⟨hnode, hlose, hrecord⟩ | ⟨⟨hfield, hstate⟩, hlose, hrecord⟩ <;> rw [hlose]
    · exact {
        slot := fun j => by rw [hrecord]; exact State.slot_conclude s i j e .lineLost
        node := fun m => by rw [if_neg (by omega)]; rfl
        pendingOrder := by rw [if_neg hlost]; exact filter_ne_of_not_mem hpending
        deferralList := filter_ne_of_not_mem hdeferral
        delivery := by rw [if_neg hlost]; rfl
        counters := by rw [if_neg hlost]; rfl
        others := rfl }
    · exact {
        slot := fun j => by rw [hrecord]; exact State.slot_conclude s i j _ .lineLost
        node := fun m => by rw [hstate]; exact node_setNodeState_of_range _ (by omega) _ m
        pendingOrder := by rw [if_neg hlost]; exact filter_ne_of_not_mem hpending
        deferralList := filter_ne_of_not_mem hdeferral
        delivery := by rw [if_neg hlost]; rfl
        counters := by rw [if_neg hlost]; rfl
        others := rfl }

/-! ## One issue after another -/

/-- The pending order once the slots of a list have joined it one after another (R59). -/
def State.joinPending (s : State) (order l : List Slot) : List Slot :=
  l.foldl (fun o i => insertBefore (s.younger (s.sequenceOf i)) i o) order

theorem mem_joinPending (s : State) (order l : List Slot) (j : Slot) : j ∈ s.joinPending order l ↔ j ∈ l ∨ j ∈ order := by
  induction l generalizing order with
  | nil => simp [State.joinPending]
  | cons i l ih =>
    refine (ih _).trans ?_
    rw [mem_insertBefore, List.mem_cons]
    tauto

/-- A state u once the exchanges of the slots l, all ISSUED in s, have lost the field line. -/
structure State.Lost (s : State) (l : List Slot) (u : State) : Prop where
  slot : ∀ i, u.slot i = if i ∈ l then (s.slot i).map lossRecord else s.slot i
  node : ∀ i ∈ l, ∀ e, s.slot i = some e → e.node ≠ 63 → u.node e.node = { s.node e.node with state := lossState i e }
  otherNodes : ∀ m, (∀ i ∈ l, ∀ e, s.slot i = some e → e.node = m → m = 63) → u.node m = s.node m
  pendingOrder : u.pendingOrder = s.joinPending s.pendingOrder (l.filter fun i => s.readyAtLoss i)
  deferralList : u.deferralList = s.deferralList
  delivery : u.delivery = s.delivery ++ (l.filter fun i => !s.readyAtLoss i).map .conclusion
  counters : u.counters = (s.tallies (.outcomes .lineLost) (l.filter fun i => !s.readyAtLoss i).length).counters
  others : s.ExchangesOnly u

theorem lost_nil (s : State) : s.Lost [] s where
  slot := fun _ => rfl
  node := nofun
  otherNodes := fun _ _ => rfl
  pendingOrder := rfl
  deferralList := rfl
  delivery := by simp
  counters := rfl
  others := rfl

theorem State.Lost.changed (h : s.Lost l u) (hi : i ∈ l) (hs : s.slot i = some e) : u.slot i = some (lossRecord e) := by
  rw [h.slot, if_pos hi, hs]
  rfl

theorem State.Lost.kept (h : s.Lost l u) (hi : i ∉ l) : u.slot i = s.slot i := (h.slot i).trans (if_neg hi)

/-- The losses leave the admission sequences as they are, and with them the ages (R54). -/
theorem State.Lost.younger_eq (h : s.Lost l u) (seq : AdmissionSeq) : u.younger seq = s.younger seq := by
  funext j
  rw [State.younger, State.younger, h.slot]
  cases s.slot j <;> by_cases hj : j ∈ l <;> simp [hj, admissionSeq_lossRecord]

/-- One more issue lost, its node being no other's. -/
theorem State.Lost.snoc (h : s.Lost l u) (hs : s.slot i = some e) (hnew : i ∉ l) (step : u.LosesIssue i e (u.loseIssue i))
    (hnodes : ∀ j ∈ l, ∀ f, s.slot j = some f → f.node = e.node → e.node = 63) : s.Lost (l ++ [i]) (u.loseIssue i) := by
  have hready : u.readyAtLoss i = s.readyAtLoss i := by rw [State.readyAtLoss, State.readyAtLoss, h.kept hnew]
  have hsequence : s.sequenceOf i = e.admissionSeq := by rw [State.sequenceOf, hs]
  exact {
    slot := fun j => by
      rw [step.slot, h.slot]
      by_cases hij : i = j
      · obtain rfl := hij
        rw [if_pos rfl, if_pos (by simp), hs]
        rfl
      · simp [hij, Ne.symm hij]
    node := fun j hj f hf hfield => by
      rcases List.mem_append.mp hj with hj | hj
      · rw [step.node, if_neg fun hx : e.node = f.node ∧ f.node ≠ 63 => hx.2 (hx.1 ▸ hnodes j hj f hf hx.1.symm)]
        exact h.node j hj f hf hfield
      · obtain rfl := List.mem_singleton.mp hj
        obtain rfl := Option.some.inj (hs.symm.trans hf)
        rw [step.node, if_pos ⟨rfl, hfield⟩, h.otherNodes e.node hnodes]
    otherNodes := fun m hm => by
      rw [step.node, if_neg fun hx => hx.2 (hm i (by simp) e hs hx.1)]
      exact h.otherNodes m fun j hj => hm j (List.mem_append_left _ hj)
    pendingOrder := by
      rw [step.pendingOrder, hready, h.younger_eq, h.pendingOrder, List.filter_append]
      cases hr : s.readyAtLoss i <;> simp [hr, State.joinPending, hsequence]
    deferralList := step.deferralList.trans h.deferralList
    delivery := by
      rw [step.delivery, hready, h.delivery, List.filter_append]
      cases hr : s.readyAtLoss i <;> simp [hr]
    counters := by
      rw [step.counters, hready, List.filter_append]
      cases hr : s.readyAtLoss i with
      | true => simpa [hr] using h.counters
      | false => simpa [hr, tallies_succ] using counters_tally_congr h.counters (.outcomes .lineLost)
    others := exchangesOnly_trans h.others step.others }

/-- The ISSUED exchanges lose the field line one after another (R122). -/
theorem lost_foldl (law : s.ExchangeLaw) (l : List Slot) (hnodup : l.Nodup)
    (hl : ∀ i ∈ l, ∃ e, s.slot i = some e ∧ e.state = .issued) : s.Lost l (l.foldl State.loseIssue s) := by
  induction l using List.reverseRecOn with
  | nil => exact lost_nil s
  | append_singleton l i ih =>
    obtain ⟨hold, -, hdisjoint⟩ := List.nodup_append.mp hnodup
    have hnew : i ∉ l := fun hi => hdisjoint i hi i (by simp) rfl
    obtain ⟨e, hs, hissued⟩ := hl i (by simp)
    have hl' (j) (hj : j ∈ l) := hl j (List.mem_append_left _ hj)
    have done := ih hold hl'
    have hslot := (done.kept hnew).trans hs
    have hdeferral : i ∉ s.deferralList := fun hi => by
      obtain ⟨e', hs', hdeferred⟩ := (law.deferralList i).mp hi
      obtain rfl := Option.some.inj (hs'.symm.trans hs)
      exact absurd (hdeferred.symm.trans hissued) (by simp)
    have hpending : i ∉ s.pendingOrder := fun hi => by
      obtain ⟨e', hs', hpending⟩ := (law.pendingOrder i).mp hi
      obtain rfl := Option.some.inj (hs'.symm.trans hs)
      simp [hissued] at hpending
    rw [List.foldl_append]
    refine done.snoc hs hnew (loseIssue_changes hslot hissued (law.nodes i e hs) ?_ (done.deferralList ▸ hdeferral)) ?_
    · rw [done.pendingOrder, mem_joinPending]
      exact not_or.mpr ⟨fun hi => hnew (List.mem_filter.mp hi).1, hpending⟩
    · intro j hj f hf hnode
      by_contra hfield
      obtain ⟨f', hf', hissued'⟩ := hl' j hj
      obtain rfl := Option.some.inj (hf'.symm.trans hf)
      have hi := (law.occupied e.node i).mpr ⟨hfield, e, hs, rfl, hissued⟩
      have hj' := (law.occupied e.node j).mpr ⟨hfield, f', hf, hnode, hissued'⟩
      have hij : i = j := NodeState.occupied.inj (hi.symm.trans hj')
      exact hnew (hij ▸ hj)

/-! ## The change to DOWN -/

theorem counter_of_counters (h : t.counters = u.counters) (c : Counter) : t.counter c = u.counter c := by
  rw [State.counter, State.counter, h]

theorem counter_tallies (s : State) (c d : Counter) (k : Nat) :
    (s.tallies c k).counter d = if c = d then s.counter d + BitVec.ofNat 32 k else s.counter d := by
  induction k with
  | zero => simp [State.tallies]
  | succ k ih =>
    rw [tallies_succ, State.counter_tally, ih]
    by_cases h : c = d
    · simp only [h, if_true, BitVec.ofNat_add, BitVec.add_assoc]
      rfl
    · simp only [h, if_false]

theorem ExchangeLaw_of_port (law : s.ExchangeLaw) (p : Port) (cs : Vector (BitVec 32) 30) :
    State.ExchangeLaw { s with fieldPort := p, counters := cs, inFlight := none, receipts := [] } :=
  ⟨law.nodes, law.occupied, law.held, law.broadcast, law.pendingOrder, law.pendingOnce, law.deferralList, law.deferralOnce,
    law.intake, law.schedule⟩

/-- What the change to DOWN makes of the port and of the counters (R5, R7, R125). -/
theorem endFieldReceive_eq (s : State) (arrived : Bool) :
    ∃ p cs, s.endFieldReceive arrived = { s with fieldPort := p, counters := cs } ∧
      (s.fieldPort.receive = .receiving → arrived = true → p = { up := false, run := 0, receive := .arrived, tx := none }) ∧
      (s.fieldPort.receive ≠ .receiving ∨ arrived = false → p = { up := false, run := 0, receive := .idle, tx := none }) ∧
      ∀ c, State.counter { s with counters := cs } c =
        if c = .fieldMalformed ∧ s.fieldPort.receive = .receiving ∧ arrived = false then s.counter c + 1 else s.counter c := by
  by_cases hreceiving : s.fieldPort.receive = .receiving
  · cases arrived with
    | true =>
      refine ⟨_, _, if_pos (by simp [hreceiving]), fun _ _ => rfl, fun h => ?_, fun c => ?_⟩
      · exact absurd hreceiving (h.resolve_right (by simp))
      · rw [if_neg (by simp)]
    | false =>
      have hcut : s.endFieldReceive false = { s.tally .fieldMalformed with fieldPort := s.fieldPort.lower } := by
        rw [State.endFieldReceive, if_neg (by simp), State.tallyCutShort, if_pos (by exact hreceiving)]
        rfl
      refine ⟨_, _, hcut, fun _ h => absurd h (by simp), fun _ => rfl, fun c => ?_⟩
      refine (State.counter_tally s .fieldMalformed c).trans ?_
      simp [hreceiving, eq_comm]
  · have hcut : s.endFieldReceive arrived = { s with fieldPort := s.fieldPort.lower } := by
      rw [State.endFieldReceive, if_neg (by simp [hreceiving]), State.tallyCutShort, if_neg (by exact hreceiving)]
    refine ⟨_, _, hcut, fun h => absurd h hreceiving, fun _ => rfl, fun c => ?_⟩
    rw [if_neg (by simp [hreceiving])]

theorem endQuiet_of_quiet {x : NodeEntry} {q : Option Mono} (h : x.state = .quiet q) : endQuiet x = { x with state := .idle } := by
  rw [endQuiet, h]

theorem endQuiet_of_other {x : NodeEntry} (h : x.state = .idle ∨ ∃ i, x.state = .held i) : endQuiet x = x := by
  rcases h with h | ⟨i, h⟩ <;> rw [endQuiet, h]

/-- Settles O13: the port, then the ISSUED exchanges one after another, then the QUIET nodes and the flag. -/
theorem fieldLineDown : Obligations.FieldLineDown := by
  intro s arrived law hup hrun hturn harrived
  obtain rfl : arrived = s.replyWaits := Bool.eq_iff_iff.mpr (harrived.trans replyWaits_iff)
  obtain ⟨p, cs, hcut, harrives, hidle, hcount⟩ := endFieldReceive_eq s s.replyWaits
  have hmem (i : Slot) : i ∈ s.slotsByAge (fun e => e.state == .issued) ↔ ∃ e, s.slot i = some e ∧ e.state = .issued := by
    simp [mem_slotsByAge]
  have done := lost_foldl (ExchangeLaw_of_port law p cs) (s.slotsByAge fun e => e.state == .issued) (nodup_slotsByAge s _)
    fun i hi => (hmem i).mp hi
  generalize hu : (s.slotsByAge fun e => e.state == .issued).foldl State.loseIssue
    { s with fieldPort := p, counters := cs, inFlight := none, receipts := [] } = u at done
  have hlose : s.loseField s.replyWaits = State.raiseFlag { u with nodes := u.nodes.map endQuiet } .fieldLineLoss := by
    rw [← hu, State.loseField, hcut]
    rfl
  have hdown : s.fieldPort.downDue = true := by simp [Port.downDue, hup, Config.downTicks, hrun]
  have hslot (i : Slot) (e : Exchange) (hs : s.slot i = some e) (hissued : e.state = .issued) : u.slot i = some (lossRecord e) :=
    done.changed ((hmem i).mpr ⟨e, hs, hissued⟩) hs
  have hkept (i : Slot) (h : ∀ e, s.slot i = some e → e.state ≠ .issued) : u.slot i = s.slot i :=
    done.kept fun hi => by
      obtain ⟨e, hs, hissued⟩ := (hmem i).mp hi
      exact h e hs hissued
  have hnode (i : Slot) (e : Exchange) (hs : s.slot i = some e) (hissued : e.state = .issued) (hfield : e.node ≠ 63) :
      u.node e.node = { s.node e.node with state := lossState i e } :=
    done.node i ((hmem i).mpr ⟨e, hs, hissued⟩) e hs hfield
  have hfree (n : Nat) (h : ∀ i, (s.node n).state ≠ .occupied i) : u.node n = s.node n :=
    done.otherNodes n fun i hi e hs hn => by
      by_contra hfield
      obtain ⟨e', hs', hissued⟩ := (hmem i).mp hi
      exact h i ((law.occupied n i).mpr ⟨hfield, e', hs', by rw [Option.some.inj (hs'.symm.trans hs), hn], hissued⟩)
  have hquieted (n : Nat) (hrange : 1 ≤ n ∧ n ≤ 62) :
      State.node { u with nodes := u.nodes.map endQuiet } n = endQuiet (u.node n) :=
    (State.node_map (s := u) rfl n).trans (if_pos hrange)
  have hport : u.fieldPort = p := congrArg State.fieldPort done.others
  have hcounter (c : Counter) (hc : c ≠ .outcomes .lineLost) : u.counter c = State.counter { s with counters := cs } c :=
    (counter_of_counters done.counters c).trans ((counter_tallies _ _ c _).trans (if_neg (Ne.symm hc)))
  refine ⟨State.raiseFlag { u with nodes := u.nodes.map endQuiet } .fieldLineLoss, ?_, fun hr ha => hport.trans (harrives hr ha),
    fun h => hport.trans (hidle h), congrArg State.inFlight done.others, congrArg State.receipts done.others,
    fun i hs => (hkept i (by simp [hs])).trans hs, fun i e hs hst => (hkept i (by simpa [hs] using hst)).trans hs,
    fun i e hs hissued hbroadcast => (hslot i e hs hissued).trans (congrArg some (if_pos hbroadcast)),
    fun i e hs hissued hfield hbeyond => ⟨?_, ?_⟩, fun i e hs hissued hfield hwithin => ⟨?_, ?_⟩, fun n q hq => ?_, fun n hst => ?_,
    done.pendingOrder, done.delivery, ?_, ?_, fun c hc hc' => ?_, ?_⟩
  · show s.inTurn s.fieldPort.downDue (s.loseField s.replyWaits) = _
    rw [hdown, hlose]
    exact inTurn_taken (noHanding_iff.mp hturn)
  · exact (hslot i e hs hissued).trans (congrArg some ((if_neg hfield).trans (if_pos hbeyond)))
  · have hstate : lossState i e = .idle := if_pos hbeyond
    obtain ⟨hlow, hhigh⟩ := law.nodes i e hs
    refine (hquieted e.node (by omega)).trans ?_
    rw [hnode i e hs hissued hfield, hstate, endQuiet_of_other (.inl rfl)]
  · exact (hslot i e hs hissued).trans (congrArg some ((if_neg hfield).trans (if_neg (by omega))))
  · have hstate : lossState i e = .held i := if_neg (by omega)
    obtain ⟨hlow, hhigh⟩ := law.nodes i e hs
    refine (hquieted e.node (by omega)).trans ?_
    rw [hnode i e hs hissued hfield, hstate, endQuiet_of_other (.inr ⟨i, rfl⟩)]
  · have hrange : 1 ≤ n ∧ n ≤ 62 := by
      by_contra hout
      rw [s.node_outside hout] at hq
      exact nomatch hq
    refine (hquieted n hrange).trans ?_
    rw [hfree n (by simp [hq]), endQuiet_of_quiet hq]
  · have hsame : u.node n = s.node n := hfree n (by rcases hst with hst | ⟨i, hst⟩ <;> simp [hst])
    by_cases hrange : 1 ≤ n ∧ n ≤ 62
    · exact (hquieted n hrange).trans (by rw [hsame, endQuiet_of_other hst])
    · exact (State.node_outside _ hrange).trans (s.node_outside hrange).symm
  · have hlost : State.counter { s with counters := cs } (.outcomes .lineLost) = s.counter (.outcomes .lineLost) :=
      (hcount _).trans (if_neg (by simp))
    exact ((counter_of_counters done.counters _).trans ((counter_tallies _ _ _ _).trans (if_pos rfl))).trans
      (congrArg (· + _) hlost)
  · refine (hcounter .fieldMalformed (by simp)).trans ((hcount _).trans ?_)
    simp only [true_and]
  · exact (hcounter c hc).trans ((hcount c).trans (if_neg fun h => hc' h.1))
  · have hothers : u =
        { s with
          fieldPort := u.fieldPort, inFlight := u.inFlight, receipts := u.receipts, slots := u.slots, nodes := u.nodes,
          pendingOrder := u.pendingOrder, delivery := u.delivery, counters := u.counters } := by
      refine Eq.trans done.others ?_
      rw [hport, congrArg State.inFlight done.others, congrArg State.receipts done.others, done.deferralList]
    exact congrArg (fun v : State => State.raiseFlag { v with nodes := u.nodes.map endQuiet } .fieldLineLoss) hothers

end Sys2Proof.Machine

/-! The arbiter's choice, and when it starts (O24). -/

namespace Sys2Proof.Machine

-- One theorem at a time, as in the tests: the memory limit of the check leaves room for few threads.
set_option Elab.async false

variable {s t u : State} {i j : Slot} {e f g : Exchange} {n m : Nat} {spared : Option Slot} {st : NodeState}

/-! ## The choice -/

theorem oldestEligible_of_oldest {schedule : Bool} (h : s.oldestCandidate schedule i) : s.oldestEligible schedule = some i := by
  obtain ⟨hcandidate, before, behind, horder, hnone⟩ := h
  rw [oldestEligible_eq, List.find?_eq_some_iff_append]
  refine ⟨candidate_iff.mp hcandidate, before, behind, horder, fun j hj => ?_⟩
  rw [Bool.not_eq_true', Bool.eq_false_iff]
  exact mt candidate_iff.mpr (hnone j hj)

theorem oldestEligible_eq_none {schedule : Bool} (h : ∀ j ∈ s.pendingOrder, ¬ s.candidate schedule j) :
    s.oldestEligible schedule = none := by
  rw [oldestEligible_eq]
  exact List.find?_eq_none.mpr fun j hj => mt candidate_iff.mpr (h j hj)

theorem fieldChoice_of_busy (h : s.fieldPort.up = false ∨ s.fieldPort.tx ≠ none) : s.fieldChoice = none := by
  refine if_neg ?_
  rw [Port.canStart, Bool.and_eq_true, Option.isNone_iff_eq_none]
  rintro ⟨hup, hidle⟩
  exact h.elim (fun hdown => absurd (hdown.symm.trans hup) Bool.false_ne_true) fun hbusy => hbusy hidle

theorem fieldChoice_of_receipt (hup : s.fieldPort.up = true) (hidle : s.fieldPort.tx = none) {r : Receipt} {rest : List Receipt}
    (h : s.receipts = r :: rest) : s.fieldChoice = some (.receipt r) := by
  rw [State.fieldChoice, if_pos (Port.canStart_of_idle hup hidle), h]

theorem fieldChoice_of_no_receipt (hup : s.fieldPort.up = true) (hidle : s.fieldPort.tx = none) (h : s.receipts = []) :
    s.fieldChoice = s.selected.map .exchange := by
  rw [State.fieldChoice, if_pos (Port.canStart_of_idle hup hidle), h]

/-! ## What an event can make eligible (R85) -/

theorem isBarrier_waiting (h : e.isBarrier = true) : e.state = .waiting := (isBarrier_iff.mp h).1

theorem leftNow_of_idleNow (h : s.idleNow spared n = true) : s.leftNow spared n = true := by
  simp [State.leftNow, h]

theorem idleNow_of_idle (h : (s.node n).state = .idle) : s.idleNow spared n = true := by
  simp [State.idleNow, h]

theorem leftNow_of_not_busy (h : (s.node n).state.busy = false) : s.leftNow spared n = true := by
  simp [State.leftNow, h]

theorem eligibleNow_of_ready (hs : s.slot i = some e) (h : e.state = .ready) : s.eligibleNow spared i = true := by
  simp only [State.eligibleNow, hs, h]

theorem mem_allNodes : n ∈ allNodes ↔ 1 ≤ n ∧ n ≤ 62 := by
  rw [allNodes, List.mem_map]
  constructor
  · rintro ⟨k, -, rfl⟩
    omega
  · rintro ⟨hlow, hhigh⟩
    exact ⟨⟨n - 1, by omega⟩, List.mem_finRange _, Nat.sub_add_cancel hlow⟩

theorem barrierNow_iff {seq : AdmissionSeq} :
    s.barrierNow spared seq = true ↔
      ∃ j b, s.slot j = some b ∧ b.isBarrier = true ∧ olderSeq b.admissionSeq seq = true ∧ s.endsNow spared j = false := by
  rw [State.barrierNow, List.any_eq_true]
  refine exists_congr fun j => ?_
  cases s.slot j <;> simp [mem_allSlots, and_assoc]

theorem opensNow_iff {seq : AdmissionSeq} :
    s.opensNow spared n seq = true ↔
      (if n = 63 then ∀ m, 1 ≤ m → m ≤ 62 → s.leftNow spared m = true else s.idleNow spared n = true) ∧
        s.barrierNow spared seq = false := by
  rw [State.opensNow, Bool.and_eq_true, Bool.not_eq_true']
  refine and_congr_left fun _ => ?_
  by_cases hn : n = 63
  · rw [if_pos (show n = Config.broadcastNode from hn), if_pos hn, List.all_eq_true]
    exact forall_congr' fun m => by rw [mem_allNodes, and_imp]
  · rw [if_neg (show ¬ n = Config.broadcastNode from hn), if_neg hn]

/-- What an event must have left alone for what it makes eligible to have been foreseen: the WAITING exchanges, their barriers but
for those that may end, and the nodes but for those that can be left (R85). -/
theorem eligibleNow_of_event (hwaiting : ∀ j f, t.slot j = some f → f.state = .waiting → s.slot j = some f)
    (hready : ∀ j f, t.slot j = some f → f.state = .ready → s.eligibleNow spared j = true)
    (hbarrier : ∀ j b, s.slot j = some b → b.isBarrier = true → t.slot j = some b ∨ s.endsNow spared j = true)
    (hidle : ∀ n, (t.node n).state = .idle → s.idleNow spared n = true)
    (hleft : ∀ n, (t.node n).state.busy = false → s.leftNow spared n = true)
    (hslot : t.slot j = some f) (heligible : t.eligible f = true) : s.eligibleNow spared j = true := by
  rcases eligible_iff.mp heligible with hst | ⟨hst, hnode, hfree⟩
  · exact hready j f hslot hst
  · have hopens : s.opensNow spared f.node f.admissionSeq = true := by
      refine opensNow_iff.mpr ⟨?_, ?_⟩
      · by_cases hn : f.node = 63
        · rw [if_pos hn] at hnode ⊢
          exact fun m hlow hhigh => hleft m (noNodeBusy_iff.mp hnode m hlow hhigh)
        · rw [if_neg hn] at hnode ⊢
          exact hidle _ hnode
      · rw [Bool.eq_false_iff]
        intro hnow
        obtain ⟨k, b, hs, hb, holder, hends⟩ := barrierNow_iff.mp hnow
        rcases hbarrier k b hs hb with hstays | hover
        · exact absurd (barrierAhead_iff.mpr ⟨k, b, hstays, isBarrier_iff.mp hb, holder⟩) (by simp [hfree])
        · exact absurd (hends.symm.trans hover) Bool.false_ne_true
    simpa only [State.eligibleNow, hwaiting j f hslot hst, hst] using hopens

/-- The same for an event that changes one slot and the state of one node. -/
theorem eligibleNow_of_change (hslot : ∀ j, t.slot j = if i = j then some g else s.slot j) (hs : s.slot i = some e)
    (hwaiting : g.state ≠ .waiting) (hready : g.state = .ready → s.eligibleNow spared i = true)
    (hbarrier : e.isBarrier = true → s.endsNow spared i = true)
    (hnode : ∀ n, (t.node n).state = (s.node n).state ∨ n = m ∧ (t.node n).state = st)
    (hidle : st = .idle → s.idleNow spared m = true) (hleft : st.busy = false → s.leftNow spared m = true)
    (hf : t.slot j = some f) (heligible : t.eligible f = true) : s.eligibleNow spared j = true := by
  refine eligibleNow_of_event (t := t) (fun k x hx hst => ?_) (fun k x hx hst => ?_) (fun k b hb hbar => ?_) (fun n hn => ?_)
    (fun n hn => ?_) hf heligible
  · rw [hslot] at hx
    split at hx
    · exact absurd (Option.some.inj hx ▸ hst) hwaiting
    · exact hx
  · rw [hslot] at hx
    split at hx
    · next hik => exact hik ▸ hready (Option.some.inj hx ▸ hst)
    · exact eligibleNow_of_ready hx hst
  · by_cases hik : i = k
    · subst hik
      obtain rfl := Option.some.inj (hs.symm.trans hb)
      exact .inr (hbarrier hbar)
    · exact .inl ((hslot k).trans ((if_neg hik).trans hb))
  · rcases hnode n with hsame | ⟨rfl, hnew⟩
    · exact idleNow_of_idle (hsame ▸ hn)
    · exact hidle (hnew.symm.trans hn)
  · rcases hnode n with hsame | ⟨rfl, hnew⟩
    · exact leftNow_of_not_busy (hsame ▸ hn)
    · exact hleft (hnew ▸ hn)

/-! ## The timers (R57, R64) -/

theorem windowExpires_eq_some : s.windowExpires i = some e ↔ s.slot i = some e ∧ e.state = .issued ∧ reached? s.now e.answerDue = true := by
  simp [State.windowExpires, Option.filter_eq_some_iff]

theorem reissueReached_eq_some :
    s.reissueReached i = some e ↔ s.slot i = some e ∧ e.state = .deferred ∧ reached? s.now e.reissueDue = true := by
  simp [State.reissueReached, Option.filter_eq_some_iff]

theorem lifetimeReached_eq_some :
    s.lifetimeReached i = some e ↔ s.slot i = some e ∧ e.lifetimeArmed = true ∧ reached s.now e.lifetimeEnd = true := by
  simp [State.lifetimeReached, Option.filter_eq_some_iff]

theorem endsNow_of_lifetime (hspared : spared ≠ some i) (h : s.lifetimeReached i = some e) : s.endsNow spared i = true := by
  simp [State.endsNow, State.mayEnd, hspared, h]

theorem idleNow_of_freesNow (h : s.freesNow spared n i = true) : s.idleNow spared n = true := by
  simp only [State.idleNow, Bool.or_eq_true, List.any_eq_true]
  exact .inr ⟨i, mem_allSlots i, h⟩

theorem idleNow_of_last_silence (h : s.windowExpires i = some e) (hlast : e.snapshot.silentLimit < e.silentCount + 1) :
    s.idleNow spared e.node = true := by
  refine idleNow_of_freesNow (i := i) ?_
  simp [State.freesNow, (windowExpires_eq_some.mp h).1, h, hlast]

theorem idleNow_of_end (hs : s.slot i = some e) (hends : s.endsNow spared i = true) (hst : e.state = .deferred ∨ e.state = .ready) :
    s.idleNow spared e.node = true := by
  refine idleNow_of_freesNow (i := i) ?_
  rcases hst with hst | hst <;> simp [State.freesNow, hs, hends, hst]

theorem leftNow_of_window (h : s.windowExpires i = some e) : s.leftNow spared e.node = true := by
  simp only [State.leftNow, Bool.or_eq_true, List.any_eq_true]
  exact .inr ⟨i, mem_allSlots i, by simp [h]⟩

theorem not_barrier_of_issued (h : e.state = .issued) : ¬ e.isBarrier = true := fun hb =>
  absurd ((isBarrier_waiting hb).symm.trans h) (by simp)

theorem state_setNodeState_cases (s : State) (m : Nat) (st : NodeState) (n : Nat) :
    ((s.setNodeState m st).node n).state = (s.node n).state ∨ n = m ∧ ((s.setNodeState m st).node n).state = st := by
  rw [State.node_setNodeState]
  split
  · next h => exact .inr ⟨h.1.symm, rfl⟩
  · exact .inl rfl

/-- A conclusion with its node effect makes eligible only what is foreseen. -/
theorem eligibleNow_of_conclude_node {x : Exchange} {o : OutcomeCode} (hs : s.slot i = some e)
    (hbarrier : e.isBarrier = true → s.endsNow spared i = true) (hidle : st = .idle → s.idleNow spared m = true)
    (hleft : st.busy = false → s.leftNow spared m = true) (hf : ((s.conclude i x o).setNodeState m st).slot j = some f)
    (heligible : ((s.conclude i x o).setNodeState m st).eligible f = true) : s.eligibleNow spared j = true := by
  have hslot (k : Slot) : ((s.conclude i x o).setNodeState m st).slot k = if i = k then some (concludedRecord x o) else s.slot k :=
    State.slot_conclude s i k x o
  have hnode (n : Nat) : (((s.conclude i x o).setNodeState m st).node n).state = (s.node n).state ∨
      n = m ∧ (((s.conclude i x o).setNodeState m st).node n).state = st :=
    state_setNodeState_cases (s.conclude i x o) m st n
  exact eligibleNow_of_change hslot hs (by simp [concludedRecord]) (by simp [concludedRecord]) hbarrier hnode hidle hleft hf heligible

/-- A conclusion that leaves the nodes makes eligible only what is foreseen. -/
theorem eligibleNow_of_conclude {x : Exchange} {o : OutcomeCode} (hs : s.slot i = some e)
    (hbarrier : e.isBarrier = true → s.endsNow spared i = true) (hf : (s.conclude i x o).slot j = some f)
    (heligible : (s.conclude i x o).eligible f = true) : s.eligibleNow spared j = true :=
  eligibleNow_of_change (m := 0) (st := .quiet none) (fun k => State.slot_conclude s i k x o) hs (by simp [concludedRecord])
    (by simp [concludedRecord]) hbarrier (fun _ => .inl rfl) (fun h => nomatch h) (fun h => nomatch h) hf heligible

/-- A deferral, its node HELD, makes eligible only what is foreseen. -/
theorem eligibleNow_of_becomeDeferred {x : Exchange} {due : Mono} (hs : s.slot i = some e)
    (hbarrier : e.isBarrier = true → s.endsNow spared i = true) (hleft : s.leftNow spared x.node = true)
    (hf : (s.becomeDeferred i x due).slot j = some f) (heligible : (s.becomeDeferred i x due).eligible f = true) :
    s.eligibleNow spared j = true := by
  have hnode (n : Nat) : ((s.becomeDeferred i x due).node n).state = (s.node n).state ∨
      n = x.node ∧ ((s.becomeDeferred i x due).node n).state = .held i := by
    unfold State.becomeDeferred
    exact state_setNodeState_cases _ x.node (.held i) n
  exact eligibleNow_of_change (fun k => State.slot_becomeDeferred s i k x due) hs (by simp) (by simp) hbarrier hnode
    (fun h => nomatch h) (fun _ => hleft) hf heligible

/-- A silence taken now makes eligible only what is foreseen (R85, R108). -/
theorem eligibleNow_of_takeSilence (hwindow : s.windowExpires i = some e) (hf : (s.takeSilence i e).slot j = some f)
    (heligible : (s.takeSilence i e).eligible f = true) : s.eligibleNow spared j = true := by
  obtain ⟨hs, hissued, -⟩ := windowExpires_eq_some.mp hwindow
  have hbarrier (hb : e.isBarrier = true) : s.endsNow spared i = true := absurd hb (not_barrier_of_issued hissued)
  have hleft : s.leftNow spared e.node = true := leftNow_of_window hwindow
  rcases State.takeSilence_cases s i e with ⟨hlast, heq⟩ | ⟨-, heq⟩ <;> rw [heq] at hf heligible
  · exact eligibleNow_of_conclude_node hs hbarrier (fun _ => idleNow_of_last_silence hwindow hlast) (fun _ => hleft)
       hf heligible
  · exact eligibleNow_of_becomeDeferred (x := { e with silentCount := e.silentCount + 1 }) hs hbarrier hleft hf heligible

/-- A reissue-due reached now makes eligible only what is foreseen (R85, R107). -/
theorem eligibleNow_of_becomeReady (hreissue : s.reissueReached i = some e) (hf : (s.becomeReady i e).slot j = some f)
    (heligible : (s.becomeReady i e).eligible f = true) : s.eligibleNow spared j = true := by
  obtain ⟨hs, hdeferred, -⟩ := reissueReached_eq_some.mp hreissue
  refine eligibleNow_of_change (m := 0) (st := .quiet none) (State.slot_becomeReady s i · e) hs (by simp) (fun _ => ?_)
    (fun hb => ?_) (fun n => .inl rfl) (fun h => nomatch h) (fun h => nomatch h) hf heligible
  · simp only [State.eligibleNow, hs, hdeferred, hreissue]
    rfl
  · exact absurd ((isBarrier_waiting hb).symm.trans hdeferred) (by simp)

/-- A lifetime end reached now, but the spared one's, makes eligible only what is foreseen (R85, R110). -/
theorem eligibleNow_of_expire (hlifetime : s.lifetimeReached i = some e) (hspared : spared ≠ some i)
    (hf : (s.expire i e).slot j = some f) (heligible : (s.expire i e).eligible f = true) : s.eligibleNow spared j = true := by
  obtain ⟨hs, -⟩ := lifetimeReached_eq_some.mp hlifetime
  have hends : s.endsNow spared i = true := endsNow_of_lifetime hspared hlifetime
  unfold State.expire at hf heligible
  split at hf
  · next hbroadcast =>
    rw [if_pos hbroadcast] at heligible
    exact eligibleNow_of_change (m := 0) (st := .quiet none) (State.slot_setSlot s i · _) hs (by simp [hbroadcast]) (by simp [hbroadcast])
      (fun _ => hends) (fun n => .inl rfl) (fun h => nomatch h) (fun h => nomatch h) hf heligible
  · next hother =>
    rw [if_neg hother] at heligible
    by_cases hconcluded : e.state = .concluded
    · have hsame : s.endExchange i e .expired = s := by rw [State.endExchange, hconcluded]
      rw [hsame] at hf heligible
      exact eligibleNow_of_eligible hf heligible
    cases hend : e.endState with
    | none =>
      rw [endExchange_of_none hconcluded hend] at hf heligible
      exact eligibleNow_of_conclude hs (fun _ => hends) hf heligible
    | some st =>
      rw [endExchange_of_some (fun hissued hnode => hother ⟨hissued, hnode⟩) hend] at hf heligible
      have hfree (hst : st.busy = false) : s.idleNow spared e.node = true := by
        refine idleNow_of_end hs hends ?_
        unfold Exchange.endState at hend
        cases hstate : e.state with
        | deferred => exact .inl rfl
        | ready => exact .inr rfl
        | waiting => simp [hstate] at hend
        | concluded => exact absurd hstate hconcluded
        | issued =>
          simp only [hstate, Option.some.injEq] at hend
          exact absurd hst (by simp [← hend, NodeState.busy])
      exact eligibleNow_of_conclude_node hs (fun _ => hends) (fun hst => hfree (by simp [hst, NodeState.busy]))
        (fun hst => leftNow_of_idleNow (hfree hst)) hf heligible

/-- A quiet-until reached now makes eligible only what is foreseen (R64, R85). -/
theorem eligibleNow_of_quietReached (hquiet : s.quietReached n = true) (hf : (s.setNodeState n .idle).slot j = some f)
    (heligible : (s.setNodeState n .idle).eligible f = true) : s.eligibleNow spared j = true := by
  have hidle : s.idleNow spared n = true := by simp [State.idleNow, hquiet]
  refine eligibleNow_of_event (t := s.setNodeState n .idle) (fun k x hx _ => hx) (fun k x hx hst => eligibleNow_of_ready (s := s) hx hst)
    (fun k b hb _ => .inl hb) (fun m hm => ?_) (fun m hm => ?_) hf heligible
  · rcases state_setNodeState_cases s n .idle m with hsame | ⟨rfl, -⟩
    · exact idleNow_of_idle (hsame ▸ hm)
    · exact hidle
  · rcases state_setNodeState_cases s n .idle m with hsame | ⟨rfl, -⟩
    · exact leftNow_of_not_busy (hsame ▸ hm)
    · exact leftNow_of_idleNow hidle

end Sys2Proof.Machine

/-! When the arbiter's choice starts (O24). -/

namespace Sys2Proof.Machine

-- One theorem at a time, as in the tests: the memory limit of the check leaves room for few threads.
set_option Elab.async false

variable {s t u v : State} {i j : Slot} {e f : Exchange} {g : Frame} {n : Nat} {k : EntryIndex} {c : FieldChoice} {x : Instr}

/-! ## What a start has waited for (R85) -/

theorem slot_ne_some (h : c ≠ .exchange i) : c.slot ≠ some i := by
  cases c with
  | receipt r => exact fun hslot => nomatch hslot
  | exchange j => exact fun hslot => h (congrArg FieldChoice.exchange (Option.some.inj hslot))

theorem eligible_of_started (hstart : s.fieldStart = some c) (h : s.eligibleNow c.slot j = true) :
    ∃ e, s.slot j = some e ∧ s.eligible e = true := by
  obtain ⟨-, -, hyet⟩ := fieldStart_iff.mp hstart
  obtain ⟨-, -, -, -, -, hall⟩ := yetToCome_iff.mp hyet
  exact eligibleSlot_iff.mp (hall s (.inl rfl) j h)

theorem firesAt_of_firstFiring (h : s.firstFiring = none) (k : EntryIndex) : s.firesAt k s.phase = none := by
  simpa using List.find?_eq_none.mp h k (List.mem_finRange k)

theorem mem_clockStates_of_idle (hheld : s.advanceHeld = false) (hedge : s.edgeDue = false) (hfiring : s.firstFiring = none)
    (h : t ∈ s.clockStates) : t = s := by
  have hadvance : s.afterAdvance = s := if_neg (by simp [hheld])
  have hafter : s.afterEdge = s := if_neg (by simp [hedge])
  simpa [mem_clockStates, hadvance, hafter, mem_withFirings, firesAt_of_firstFiring hfiring] using h

/-- At a start, what the clock events of the tick would make eligible is eligible already (R85, R159, R168). -/
theorem eligible_of_clockStates (hstart : s.fieldStart = some c) (ht : t ∈ s.clockStates) (hf : t.slot j = some f)
    (heligible : t.eligible f = true) : ∃ e, s.slot j = some e ∧ s.eligible e = true := by
  obtain ⟨-, -, hyet⟩ := fieldStart_iff.mp hstart
  obtain ⟨-, hfiring, -, -, -, hall⟩ := yetToCome_iff.mp hyet
  refine eligibleSlot_iff.mp (hall t ?_ j (eligibleNow_of_eligible hf heligible))
  by_cases hdue : (s.advanceHeld || s.edgeDue) = true
  · rw [State.clockOutcomes, if_pos hdue]
    exact .inr (List.mem_append_left _ ht)
  · obtain ⟨hheld, hedge⟩ := Bool.or_eq_false_iff.mp (Bool.eq_false_iff.mpr hdue)
    exact .inl (mem_clockStates_of_idle hheld hedge hfiring ht)

theorem cycleStart_afterAdvance (h : exec .cycleStart s = .next t) : t = s ∨ t = s.afterAdvance := by
  rcases execCycleStart_next h with rfl | ⟨⟨hheld, -⟩, rfl⟩
  · exact .inl rfl
  · exact .inr (if_pos hheld).symm

theorem syncEdge_afterEdge (hfiring : s.firstFiring = none) (hturn : s.handing = false) (h : exec .syncEdge s = .next t) :
    t = s.afterEdge := by
  rw [exec_syncEdge, execSyncEdge, inTurn_of_not_handing hturn, hfiring, Option.isNone_none, Bool.and_true, State.whenever] at h
  unfold State.afterEdge
  split at h <;> cases h <;> simp_all

theorem scheduleFiring_withFirings (h : exec (.scheduleFiring k) s = .next t) : t ∈ s.withFirings := by
  rw [mem_withFirings]
  rcases execScheduleFiring_next h with rfl | ⟨-, rfl⟩
  · exact .inl rfl
  · unfold State.fireAt
    cases hlive : s.firesAt k s.phase with
    | none => exact .inl rfl
    | some live => exact .inr ⟨k, live, hlive, rfl⟩

theorem mem_withFirings_self (s : State) : s ∈ s.withFirings := mem_withFirings.mpr (.inl rfl)

/-- The timers due now make eligible only what is foreseen (R85, R107, R108, R110). -/
theorem eligibleNow_of_lifetimeEnd {spared : Option Slot} (hspared : spared ≠ some i) (h : exec (.lifetimeEnd i) s = .next t)
    (hf : t.slot j = some f) (heligible : t.eligible f = true) : s.eligibleNow spared j = true := by
  rw [exec_lifetimeEnd, execLifetimeEnd] at h
  cases hlifetime : s.lifetimeReached i with
  | none =>
    rw [hlifetime] at h
    cases h
    exact eligibleNow_of_eligible hf heligible
  | some e =>
    rw [hlifetime] at h
    rcases inTurn_cases h with rfl | ⟨-, rfl⟩
    · exact eligibleNow_of_eligible hf heligible
    · exact eligibleNow_of_expire hlifetime hspared hf heligible

theorem eligibleNow_of_answerWindowExpiry {spared : Option Slot} (h : exec (.answerWindowExpiry i) s = .next t)
    (hf : t.slot j = some f) (heligible : t.eligible f = true) : s.eligibleNow spared j = true := by
  rcases execAnswerWindowExpiry_next h with rfl | ⟨e, hs, hissued, hdue, -, rfl⟩
  · exact eligibleNow_of_eligible hf heligible
  · exact eligibleNow_of_takeSilence (windowExpires_eq_some.mpr ⟨hs, hissued, hdue⟩) hf heligible

theorem eligibleNow_of_reissueDue {spared : Option Slot} (h : exec (.reissueDue i) s = .next t) (hf : t.slot j = some f)
    (heligible : t.eligible f = true) : s.eligibleNow spared j = true := by
  rcases execReissueDue_next h with rfl | ⟨e, hs, hdeferred, hdue, -, rfl⟩
  · exact eligibleNow_of_eligible hf heligible
  · exact eligibleNow_of_becomeReady (reissueReached_eq_some.mpr ⟨hs, hdeferred, hdue⟩) hf heligible

theorem eligibleNow_of_quietUntilReached {spared : Option Slot} (h : exec (.quietUntilReached n) s = .next t)
    (hf : t.slot j = some f) (heligible : t.eligible f = true) : s.eligibleNow spared j = true := by
  rcases execQuietUntilReached_next h with rfl | ⟨⟨hquiet, -⟩, rfl⟩
  · exact eligibleNow_of_eligible hf heligible
  · exact eligibleNow_of_quietReached hquiet hf heligible

theorem takeRequest_at_start (hstart : s.fieldStart = some c) : exec .takeRequest s = .next s := by
  obtain ⟨-, -, hyet⟩ := fieldStart_iff.mp hstart
  exact takeRequest_of_not_ready (yetToCome_iff.mp hyet).1

theorem scheduleFiring_at_start (hstart : s.fieldStart = some c) (k : EntryIndex) : exec (.scheduleFiring k) s = .next s := by
  obtain ⟨-, -, hyet⟩ := fieldStart_iff.mp hstart
  obtain ⟨-, hfiring, -⟩ := yetToCome_iff.mp hyet
  rw [exec_scheduleFiring, execScheduleFiring, hfiring]
  rfl

/-- At a start, what an event due now would make eligible is eligible already (R85). -/
theorem eligible_of_event (hstart : s.fieldStart = some c) (hevent : mayEnable x = true)
    (hspared : ∀ i, x = .lifetimeEnd i → c ≠ .exchange i) (hx : exec x s = .next t) (hf : t.slot j = some f)
    (heligible : t.eligible f = true) : ∃ e, s.slot j = some e ∧ s.eligible e = true := by
  obtain ⟨-, hturn, hyet⟩ := fieldStart_iff.mp hstart
  obtain ⟨-, hfiring, -⟩ := yetToCome_iff.mp hyet
  have now (h : s.eligibleNow c.slot j = true) : ∃ e, s.slot j = some e ∧ s.eligible e = true := eligible_of_started hstart h
  have clock (ht : t ∈ s.clockStates) : ∃ e, s.slot j = some e ∧ s.eligible e = true :=
    eligible_of_clockStates hstart ht hf heligible
  have same (ht : exec x s = .next s) : ∃ e, s.slot j = some e ∧ s.eligible e = true := by
    rw [hx] at ht
    cases ht
    exact ⟨f, hf, heligible⟩
  cases x with
  | answerWindowExpiry i => exact now (eligibleNow_of_answerWindowExpiry hx hf heligible)
  | reissueDue i => exact now (eligibleNow_of_reissueDue hx hf heligible)
  | lifetimeEnd i => exact now (eligibleNow_of_lifetimeEnd (slot_ne_some (hspared i rfl)) hx hf heligible)
  | quietUntilReached n => exact now (eligibleNow_of_quietUntilReached hx hf heligible)
  | cycleStart =>
    rcases cycleStart_afterAdvance hx with rfl | rfl
    · exact ⟨f, hf, heligible⟩
    · exact clock (mem_clockStates.mpr (.inl (mem_withFirings_self _)))
  | syncEdge =>
    obtain rfl := syncEdge_afterEdge hfiring hturn hx
    exact clock (mem_clockStates.mpr (.inr (.inl (mem_withFirings_self _))))
  | scheduleFiring k => exact same (scheduleFiring_at_start hstart k)
  | takeRequest => exact same (takeRequest_at_start hstart)
  | _ => exact nomatch hevent

/-- At a start, what an edge, the advance held for it and the firing it reaches would make eligible is eligible already (R159). -/
theorem eligible_of_edge_advance_firing (hstart : s.fieldStart = some c) (hu : exec .syncEdge s = .next u)
    (hv : exec .cycleStart u = .next v) (ht : exec (.scheduleFiring k) v = .next t) (hf : t.slot j = some f)
    (heligible : t.eligible f = true) : ∃ e, s.slot j = some e ∧ s.eligible e = true := by
  obtain ⟨-, hturn, hyet⟩ := fieldStart_iff.mp hstart
  obtain ⟨-, hfiring, -⟩ := yetToCome_iff.mp hyet
  refine eligible_of_clockStates hstart (mem_clockStates.mpr ?_) hf heligible
  obtain rfl := syncEdge_afterEdge hfiring hturn hu
  rcases cycleStart_afterAdvance hv with rfl | rfl
  · exact .inr (.inl (scheduleFiring_withFirings ht))
  · exact .inr (.inr (.inr (scheduleFiring_withFirings ht)))

/-- At a start, no node's frame that waits can matter to the choice but a REPORT at a full Receipt Queue, and no REQUEST that
waits would be eligible (R85, R136). -/
theorem comes_at_start (hstart : s.fieldStart = some c) (hcomes : s.comes x) :
    isReply x = false ∧ (isReport x = true → 8 ≤ s.receipts.length) ∧
      ∀ node tag function payload p, x = .requestArrival node tag function payload →
        s.eligible (s.newExchange (.head tag) node.toNat function payload p) = false := by
  obtain ⟨-, -, hyet⟩ := fieldStart_iff.mp hstart
  obtain ⟨-, -, hframes, hrequests, -⟩ := yetToCome_iff.mp hyet
  have hframe (h : isTick x = false) : ¬ (isReply x || (isReport x && decide (s.receipts.length < 8))) = true :=
    List.any_eq_false.mp hframes x (mem_thisTick.mpr ⟨hcomes, h⟩)
  refine ⟨Bool.eq_false_iff.mpr fun hreply => ?_, fun hreport => ?_, ?_⟩
  · exact hframe (isTick_of_isArrival (isArrival_of_isReply hreply)) (by simp [hreply])
  · have htick : isTick x = false := by
      cases x with
      | reportArrival => rfl
      | _ => exact nomatch hreport
    exact (show isReply x = false ∧ 8 ≤ s.receipts.length by simpa [hreport] using hframe htick).2
  · rintro node tag function payload p rfl
    rw [Bool.eq_false_iff]
    intro heligible
    have hmem : (⟨.request, node, tag, function, payload⟩ : Frame) ∈ s.coming := mem_coming.mpr (.inr ⟨_, hcomes, rfl⟩)
    have hopens : s.opensNow c.slot node.toNat s.admissionCounter = true := opensNow_of_eligible rfl heligible
    exact absurd hopens (by simpa using List.any_eq_false.mp hrequests _ hmem)

theorem quietReached_of_state {q : Mono} (hst : (s.node n).state = .quiet (some q)) (hq : reached s.now q = true) :
    s.quietReached n = true := by
  have hindex : (nodeIndex n).isSome = true := by
    rw [Option.isSome_iff_ne_none]
    intro hnone
    rw [State.node, hnone] at hst
    exact nomatch hst
  rw [State.quietReached, hindex, hst]
  exact hq

/-- At a start, no WAITING exchange would be eligible once the QUIET ends and the ends of broadcasts due now are taken together, but
what is eligible already (R85, R87, R88). -/
theorem eligible_of_ends_together (hstart : s.fieldStart = some c) (hs : s.slot i = some e) (hwaiting : e.state = .waiting)
    (hbarriers : ∀ j b, s.slot j = some b → b.state = .waiting → b.node = 63 →
      1 ≤ (e.admissionSeq - b.admissionSeq).toNat → (e.admissionSeq - b.admissionSeq).toNat < 2 ^ 31 →
      c ≠ .exchange j ∧ b.lifetimeArmed = true ∧ reached s.now b.lifetimeEnd = true)
    (hnode : e.node ≠ 63 →
      (s.node e.node).state = .idle ∨ ∃ q, (s.node e.node).state = .quiet (some q) ∧ reached s.now q = true)
    (hall : e.node = 63 → ∀ n, 1 ≤ n → n ≤ 62 →
      (s.node n).state = .idle ∨ (∃ j, (s.node n).state = .held j) ∨
        ∃ q, (s.node n).state = .quiet (some q) ∧ reached s.now q = true) :
    s.eligible e = true := by
  have hidle {n : Nat} (h : (s.node n).state = .idle ∨ ∃ q, (s.node n).state = .quiet (some q) ∧ reached s.now q = true) :
      s.idleNow c.slot n = true := by
    rcases h with h | ⟨q, hst, hq⟩
    · exact idleNow_of_idle h
    · simp [State.idleNow, quietReached_of_state hst hq]
  have hopens : s.opensNow c.slot e.node e.admissionSeq = true := by
    refine opensNow_iff.mpr ⟨?_, Bool.eq_false_iff.mpr fun hnow => ?_⟩
    · by_cases hn : e.node = 63
      · rw [if_pos hn]
        intro m hlow hhigh
        rcases hall hn m hlow hhigh with h | ⟨j, h⟩ | h
        · exact leftNow_of_idleNow (hidle (.inl h))
        · exact leftNow_of_not_busy (by simp [h, NodeState.busy])
        · exact leftNow_of_idleNow (hidle (.inr h))
      · rw [if_neg hn]
        exact hidle (hnode hn)
    · obtain ⟨j, b, hb, hbarrier, holder, hends⟩ := barrierNow_iff.mp hnow
      obtain ⟨hbwaiting, hbnode⟩ := isBarrier_iff.mp hbarrier
      obtain ⟨hlow, hhalf⟩ := olderSeq_eq_true.mp holder
      obtain ⟨hother, harmed, hreached⟩ := hbarriers j b hb hbwaiting hbnode hlow hhalf
      have := endsNow_of_lifetime (slot_ne_some hother) (lifetimeReached_eq_some.mpr ⟨hb, harmed, hreached⟩)
      exact absurd (hends.symm.trans this) Bool.false_ne_true
  obtain ⟨g, hg, heligible⟩ := eligible_of_started hstart (j := i) (by simpa only [State.eligibleNow, hs, hwaiting] using hopens)
  cases hs.symm.trans hg
  exact heligible

/-! ## A start when nothing is left (R85) -/

theorem headFrame_arrival (h : headFrame x = some g) : isArrival x = true := by
  cases x with
  | requestArrival | directiveArrival => rfl
  | _ => exact nomatch h

theorem isArrival_of_isReport (h : isReport x = true) : isArrival x = true := by
  cases x with
  | reportArrival => rfl
  | _ => exact nomatch h

theorem coming_eq_nil (hcomes : ∀ x, s.comes x → isArrival x = false) (hsent : ¬ s.headSent) : s.coming = [] := by
  refine List.eq_nil_iff_forall_not_mem.mpr fun f hf => ?_
  rcases mem_coming.mp hf with ⟨hcompleting, -⟩ | ⟨x, hx, hframe⟩
  · exact hsent (completing_iff_headSent.mp hcompleting)
  · exact absurd (headFrame_arrival hframe) (by simp [hcomes x hx])

theorem fieldFrameComes_eq_false (hcomes : ∀ x, s.comes x → isArrival x = false) : s.fieldFrameComes = false := by
  refine List.any_eq_false.mpr fun x hx h => ?_
  have harrival : isArrival x = true := by
    rcases Bool.or_eq_true_iff.mp h with hreply | hreport
    · exact isArrival_of_isReply hreply
    · exact isArrival_of_isReport (Bool.and_eq_true_iff.mp hreport).1
  exact absurd harrival (by simp [hcomes x (mem_thisTick.mp hx).1])

theorem lowestFree_isSome (h : s.freeSlots ≠ 0) : s.lowestFree ≠ none := by
  refine mt (fun hnone => ?_) h
  exact List.countP_eq_zero.mpr (List.find?_eq_none.mp hnone)

theorem freeSlots_of_accept {f : Frame} {p : Policy} (h : s.judgeRequest f = .accept p) : s.freeSlots ≠ 0 := by
  unfold State.judgeRequest at h
  split at h
  · cases h
  split at h
  · cases h
  split at h
  · cases h
  split at h
  · cases h
  split at h
  · cases h
  split at h
  · cases h
  · omega

/-- A REQUEST that is ready is taken, and leaves the intake (R21, R22). -/
theorem takeReady_of_takeRequest (hturn : s.handing = false) (h : exec .takeRequest s = .next s) : s.takeReady = false := by
  rw [Bool.eq_false_iff]
  intro hready
  have hclaims : s.intakeClaims = false := by
    rw [Bool.eq_false_iff]
    intro hclaims
    simp_all [State.takeReady, State.handing]
  rcases noIntakeClaim_iff.mpr hclaims with hempty | ⟨f, rest, p, hintake, hkind, hjudge⟩
  · simp [State.takeReady, hempty] at hready
  · obtain ⟨i, hfree⟩ := Option.ne_none_iff_exists'.mp (lowestFree_isSome (freeSlots_of_accept hjudge))
    have hsame := (takeRequest_admits hintake hkind hjudge hfree hturn).symm.trans h
    have hrest : rest = s.intake := congrArg State.intake (Host.Outcome.next.inj hsame)
    exact List.cons_ne_self f rest (hrest.trans hintake).symm

theorem fired_fire (s : State) (k : EntryIndex) (live : ScheduleFields) : ((s.fire k live).entry k).fired = true := by
  have marked (g : ScheduleEntry → ScheduleEntry) :
      ((s.updateEntry k fun e => markFired s.segmentTime (g e)).entry k).fired = true := by
    rw [State.entry_updateEntry, if_pos rfl]
    rfl
  cases hopen : (s.entry k).openSlot with
  | some i => exact fire_overlap (live := live) hopen ▸ marked fun e => { e with overlapSkips := e.overlapSkips + 1 }
  | none =>
    cases hpolicy : lookupPolicy s.policies live.node live.function with
    | none => exact fire_noPolicy hopen hpolicy ▸ marked fun e => { e with noPolicySkips := e.noPolicySkips + 1 }
    | some p =>
      cases hfree : s.lowestFree with
      | none => exact fire_noSlot hopen hpolicy hfree ▸ marked fun e => { e with noSlotSkips := e.noSlotSkips + 1 }
      | some i => exact fire_admits hopen hpolicy hfree ▸ marked (admittedEntry live i)

/-- An entry that fires at the present phase is fired, and marked (R168). -/
theorem firstFiring_of_scheduleFiring (hturn : s.handing = false) (h : ∀ k, exec (.scheduleFiring k) s = .next s) :
    s.firstFiring = none := by
  cases hfirst : s.firstFiring with
  | none => rfl
  | some k =>
    have hsome : (s.firesAt k s.phase).isSome = true :=
      List.find?_some (p := fun k => (s.firesAt k s.phase).isSome) hfirst
    obtain ⟨live, hlive⟩ := Option.isSome_iff_exists.mp hsome
    obtain ⟨-, hfired, -⟩ := firesAt_eq_some.mp hlive
    have hfires : exec (.scheduleFiring k) s = .next (s.fire k live) := by
      rw [exec_scheduleFiring, execScheduleFiring, hfirst, fireAt_of_firing (firesAt_eq_some.mp hlive), beq_self_eq_true]
      exact inTurn_taken hturn
    have hsame : s.fire k live = s := Host.Outcome.next.inj (hfires.symm.trans (h k))
    have := fired_fire s k live
    rw [hsame, hfired] at this
    exact absurd this Bool.false_ne_true

theorem takeAdvance_advanceHeld (s : State) : s.takeAdvance.advanceHeld = false := by
  rcases takeAdvance_cases s with ⟨-, h⟩ | ⟨-, h⟩ <;> rw [h]
  exact State.startCycle_advanceHeld _ _

/-- An advance that is held is made, and held no more (R149, R159). -/
theorem advanceHeld_of_cycleStart (hturn : s.noHanding) (h : exec .cycleStart s = .next s) : s.advanceHeld = false := by
  rw [Bool.eq_false_iff]
  intro hheld
  have hsame : s.takeAdvance = s := Host.Outcome.next.inj ((cycleStart_takes hheld hturn).symm.trans h)
  have := takeAdvance_advanceHeld s
  rw [hsame, hheld] at this
  exact absurd this.symm Bool.false_ne_true

theorem takeEdge_levelChange (s : State) : s.takeEdge.levelChange = none :=
  State.edgeEffect_levelChange _ _

/-- An edge that is due is taken, and due no more (R151). -/
theorem edgeDue_of_syncEdge (hturn : s.handing = false) (hfiring : s.firstFiring = none) (h : exec .syncEdge s = .next s) :
    s.edgeDue = false := by
  rw [Bool.eq_false_iff]
  intro hedge
  have hsame : s = s.takeEdge := (syncEdge_afterEdge hfiring hturn h).trans (if_pos hedge)
  have hnone : s.levelChange = none := hsame ▸ takeEdge_levelChange s
  simp [State.edgeDue, hnone] at hedge

/-- No timer due now has an effect, and none but the spared one can end an exchange. -/
structure State.TimersQuiet (s : State) (spared : Option Slot) : Prop where
  window : ∀ i, s.windowExpires i = none
  reissue : ∀ i, s.reissueReached i = none
  quiet : ∀ n, s.quietReached n = false
  ends : ∀ i e, s.slot i = some e → s.endsNow spared i = true → e.state = .concluded

theorem windowExpires_of_taken (hturn : s.handing = false) (h : exec (.answerWindowExpiry i) s = .next s) : s.windowExpires i = none := by
  cases hwindow : s.windowExpires i with
  | none => rfl
  | some e =>
    obtain ⟨hs, hissued, -⟩ := windowExpires_eq_some.mp hwindow
    rw [exec_answerWindowExpiry, execAnswerWindowExpiry, hwindow] at h
    have hsame : s.takeSilence i e = s := Host.Outcome.next.inj ((inTurn_taken hturn).symm.trans h)
    have hslot : (s.takeSilence i e).slot i = some e := by rw [hsame, hs]
    rcases State.takeSilence_cases s i e with ⟨-, heq⟩ | ⟨-, heq⟩ <;> rw [heq] at hslot
    · have hrecord := (State.slot_conclude s i i _ _).symm.trans hslot
      rw [if_pos rfl] at hrecord
      exact absurd (congrArg Exchange.state (Option.some.inj hrecord)) (by simp [concludedRecord, hissued])
    · rw [State.slot_becomeDeferred, if_pos rfl] at hslot
      exact absurd (congrArg Exchange.state (Option.some.inj hslot)) (by simp [hissued])

theorem reissueReached_of_taken (hturn : s.handing = false) (h : exec (.reissueDue i) s = .next s) : s.reissueReached i = none := by
  cases hreissue : s.reissueReached i with
  | none => rfl
  | some e =>
    obtain ⟨hs, hdeferred, -⟩ := reissueReached_eq_some.mp hreissue
    rw [exec_reissueDue, execReissueDue, hreissue] at h
    have hsame : s.becomeReady i e = s := Host.Outcome.next.inj ((inTurn_taken hturn).symm.trans h)
    have hslot : (s.becomeReady i e).slot i = some e := by rw [hsame, hs]
    rw [State.slot_becomeReady, if_pos rfl] at hslot
    exact absurd (congrArg Exchange.state (Option.some.inj hslot)) (by simp [hdeferred])

theorem quietReached_of_taken (hturn : s.handing = false) (h : exec (.quietUntilReached n) s = .next s) : s.quietReached n = false := by
  rw [Bool.eq_false_iff]
  intro hquiet
  rw [exec_quietUntilReached, execQuietUntilReached, hquiet] at h
  have hsame : s.setNodeState n .idle = s := Host.Outcome.next.inj ((inTurn_taken hturn).symm.trans h)
  obtain ⟨hindex, hreached⟩ := Bool.and_eq_true_iff.mp hquiet
  have hfield : 1 ≤ n ∧ n ≤ 62 := not_not.mp (mt nodeIndex_eq_none.mpr (Option.isSome_iff_ne_none.mp hindex))
  have hidle : ((s.setNodeState n .idle).node n).state = .idle := by
    rw [State.node_setNodeState, if_pos ⟨rfl, hfield⟩]
  rw [hsame] at hidle
  rw [hidle] at hreached
  exact absurd hreached Bool.false_ne_true

/-- A lifetime end that leaves the state as it is finds its exchange CONCLUDED (R110). -/
theorem concluded_of_lifetimeEnd (hturn : s.handing = false) (hlifetime : s.lifetimeReached i = some e)
    (h : exec (.lifetimeEnd i) s = .next s) : e.state = .concluded := by
  obtain ⟨hs, harmed, -⟩ := lifetimeReached_eq_some.mp hlifetime
  rw [exec_lifetimeEnd, execLifetimeEnd, hlifetime] at h
  have hsame : s.expire i e = s := Host.Outcome.next.inj ((inTurn_taken hturn).symm.trans h)
  have hslot : (s.expire i e).slot i = some e := by rw [hsame, hs]
  by_contra hopen
  have hconclude : ¬ (s.conclude i e .expired).slot i = some e := by
    rw [State.slot_conclude, if_pos rfl]
    exact fun hrecord => hopen (congrArg Exchange.state (Option.some.inj hrecord)).symm
  unfold State.expire at hslot
  split at hslot
  · rw [State.slot_setSlot, if_pos rfl] at hslot
    exact absurd (congrArg Exchange.lifetimeArmed (Option.some.inj hslot)) (by simp [harmed])
  · next hother =>
    cases hend : e.endState with
    | none =>
      rw [endExchange_of_none hopen hend] at hslot
      exact hconclude hslot
    | some st =>
      rw [endExchange_of_some (fun hissued hnode => hother ⟨hissued, hnode⟩) hend] at hslot
      exact hconclude hslot

theorem timersQuiet_of_taken (hturn : s.handing = false) (hcoming : s.coming = [])
    (h : ∀ x, mayEnable x = true → (∀ i, x = .lifetimeEnd i → c ≠ .exchange i) → exec x s = .next s) : s.TimersQuiet c.slot where
  window i := windowExpires_of_taken hturn (h _ rfl fun _ hx => nomatch hx)
  reissue i := reissueReached_of_taken hturn (h _ rfl fun _ hx => nomatch hx)
  quiet n := quietReached_of_taken hturn (h _ rfl fun _ hx => nomatch hx)
  ends i e hs hends := by
    simp only [State.endsNow, State.mayEnd, hcoming, hs, List.any_nil, Option.any_some, Bool.or_false, Bool.and_eq_true,
      bne_iff_ne] at hends
    obtain ⟨hspared, hsome⟩ := hends
    obtain ⟨f, hlifetime⟩ := Option.isSome_iff_exists.mp hsome
    obtain ⟨hf, -⟩ := lifetimeReached_eq_some.mp hlifetime
    cases hs.symm.trans hf
    refine concluded_of_lifetimeEnd hturn hlifetime (h _ rfl fun j hj hc => hspared ?_)
    cases hj
    rw [hc]
    rfl

section

variable {spared : Option Slot} (timers : s.TimersQuiet spared)

include timers

theorem freesNow_of_timersQuiet (n : Nat) (i : Slot) : s.freesNow spared n i = false := by
  unfold State.freesNow
  cases hs : s.slot i with
  | none => rfl
  | some e =>
    rw [Bool.eq_false_iff]
    intro h
    simp only [timers.window i, Option.isSome_none, Bool.false_and, Bool.false_or, Bool.and_eq_true, Bool.or_eq_true, beq_iff_eq] at h
    obtain ⟨-, hends, hst⟩ := h
    have hconcluded := timers.ends i e hs hends
    simp [hconcluded] at hst

theorem idle_of_idleNow (h : s.idleNow spared n = true) : (s.node n).state = .idle := by
  simpa [State.idleNow, timers.quiet n, freesNow_of_timersQuiet timers] using h

theorem not_busy_of_leftNow (h : s.leftNow spared n = true) : (s.node n).state.busy = false := by
  have hcases : (s.node n).state.busy = false ∨ s.idleNow spared n = true := by simpa [State.leftNow, timers.window] using h
  rcases hcases with hbusy | hidle
  · exact hbusy
  · rw [idle_of_idleNow timers hidle]
    rfl

theorem barrierAhead_of_not_barrierNow (h : s.barrierNow spared e.admissionSeq = false) : s.barrierAhead e = false := by
  rw [Bool.eq_false_iff]
  intro hahead
  obtain ⟨j, b, hb, hbarrier, holder⟩ := barrierAhead_iff.mp hahead
  have hstays : s.endsNow spared j = false := Bool.eq_false_iff.mpr fun hends =>
    absurd (hbarrier.1.symm.trans (timers.ends j b hb hends)) (by simp)
  have hnow := barrierNow_iff.mpr ⟨j, b, hb, isBarrier_iff.mpr hbarrier, holder, hstays⟩
  exact absurd (h.symm.trans hnow) Bool.false_ne_true

/-- With no timer due, what may be eligible at this tick is eligible (R85). -/
theorem eligibleSlot_of_timersQuiet (h : s.eligibleNow spared i = true) : s.eligibleSlot i = true := by
  unfold State.eligibleNow at h
  cases hs : s.slot i with
  | none => simp [hs] at h
  | some e =>
    refine eligibleSlot_iff.mpr ⟨e, hs, eligible_iff.mpr ?_⟩
    cases hst : e.state with
    | waiting =>
      simp only [hs, hst] at h
      obtain ⟨hnode, hfree⟩ := opensNow_iff.mp h
      refine .inr ⟨rfl, ?_, barrierAhead_of_not_barrierNow timers hfree⟩
      by_cases hn : e.node = 63
      · rw [if_pos hn] at hnode ⊢
        exact noNodeBusy_iff.mpr fun m hlow hhigh => not_busy_of_leftNow timers (hnode m hlow hhigh)
      · rw [if_neg hn] at hnode ⊢
        exact idle_of_idleNow timers hnode
    | ready => exact .inl rfl
    | deferred => simp [hs, hst, timers.reissue i] at h
    | issued => simp [hs, hst] at h
    | concluded => simp [hs, hst] at h

end

/-- The choice starts when no event, arrival or head transmit completion of the tick is left (R85, R174). -/
theorem fieldStart_of_taken (hchoice : s.fieldChoice = some c) (hturn : s.noHanding) (hcomes : ∀ x, s.comes x → isArrival x = false)
    (hsent : ¬ s.headSent)
    (htaken : ∀ x, mayEnable x = true → (∀ i, x = .lifetimeEnd i → c ≠ .exchange i) → exec x s = .next s) :
    s.fieldStart = some c := by
  have hhanding : s.handing = false := noHanding_iff.mp hturn
  have hcoming : s.coming = [] := coming_eq_nil hcomes hsent
  have hfiring : s.firstFiring = none := firstFiring_of_scheduleFiring hhanding fun k => htaken _ rfl fun _ hx => nomatch hx
  have hheld : s.advanceHeld = false := advanceHeld_of_cycleStart hturn (htaken _ rfl fun _ hx => nomatch hx)
  have hedge : s.edgeDue = false := edgeDue_of_syncEdge hhanding hfiring (htaken _ rfl fun _ hx => nomatch hx)
  have hclock : s.clockOutcomes = [] := if_neg (by simp [hheld, hedge])
  have hready : s.takeReady = false := takeReady_of_takeRequest hhanding (htaken _ rfl fun _ hx => nomatch hx)
  refine fieldStart_iff.mpr ⟨hchoice, hhanding, yetToCome_iff.mpr ⟨hready, hfiring, fieldFrameComes_eq_false hcomes, ?_, ?_, ?_⟩⟩
  · rw [State.requestComes, hcoming]
    rfl
  · intro _ f hf
    simp [hcoming] at hf
  · intro t ht i hnow
    rw [hclock] at ht
    obtain rfl : t = s := by simpa using ht
    exact eligibleSlot_of_timersQuiet (timersQuiet_of_taken hhanding hcoming htaken) hnow

/-- Settles O24: the choice by its cases, what a start has waited for, and that nothing else holds it back. -/
theorem arbiterChoice : Obligations.ArbiterChoice := by
  intro s
  refine ⟨fieldChoice_of_busy, fun hup hidle => ⟨fun r rest => fieldChoice_of_receipt hup hidle, fun hempty => ?_⟩,
    fun c hstart => ⟨fieldStart_choice hstart, noHanding_iff.mpr (fieldStart_iff.mp hstart).2.1,
      fun x t hevent hspared hx j f hf heligible => eligible_of_event hstart hevent hspared hx hf heligible⟩,
    fun c hstart => ⟨takeRequest_at_start hstart, scheduleFiring_at_start hstart⟩,
    fun c k u v t hstart hu hv ht j f hf heligible => eligible_of_edge_advance_firing hstart hu hv ht hf heligible,
    fun c x hstart hcomes => comes_at_start hstart hcomes,
    fun c i e hstart hs hwaiting hbarriers hnode hall => eligible_of_ends_together hstart hs hwaiting hbarriers hnode hall,
    fun c hchoice hturn hcomes hsent htaken => fieldStart_of_taken hchoice hturn hcomes hsent htaken⟩
  rw [fieldChoice_of_no_receipt hup hidle hempty, State.selected]
  refine ⟨fun a b ha hb => ?_, fun a ha hnone => ?_, fun b hb hnone => ?_, fun hnone => ?_⟩
  · rw [oldestEligible_of_oldest ha, oldestEligible_of_oldest hb]
    exact ⟨fun hshare => congrArg _ (if_pos hshare), fun hshare => congrArg _ (if_neg (Nat.not_lt.mpr hshare))⟩
  · rw [oldestEligible_of_oldest ha, oldestEligible_eq_none hnone]
    rfl
  · rw [oldestEligible_of_oldest hb, oldestEligible_eq_none hnone]
    rfl
  · rw [oldestEligible_eq_none fun j hj => (hnone j hj).1, oldestEligible_eq_none fun j hj => (hnone j hj).2]
    rfl

end Sys2Proof.Machine
